-- ==== Sys2Proof/Word.lean ====
section
/-! DEFINITION. The word types of the PX8 and the two containers that its eight axes and its two ports need.
Register-like quantities that travel on the wire are bit vectors (00_scope.md 0.4, 10 R176); counts are natural numbers. -/

namespace Sys2Proof

/-- A byte of a frame (R158), a mask of axes or a set of notice kinds (R176). -/
abbrev Byte := BitVec 8

/-- A 16-bit quantity of the wire (R176): a position, a limit, a segment value. -/
abbrev Word16 := BitVec 16

/-- An axis number, 0 to 7 (R1). -/
abbrev AxisId := Fin 8

/-- A drive profile entry number, 0 to 7 (R84). -/
abbrev ProfileId := Fin 8

/-- A rate code, 0 to 7 (00_scope.md 0.4.3). -/
abbrev RateCode := Fin 8

/-- One of the two serial command ports (00_scope.md Table 0-1). -/
inductive Port where
  | a
  | b
  deriving DecidableEq, Repr

/-- The port that is not this one. -/
def Port.other : Port → Port
  | .a => .b
  | .b => .a

/-- One value for each port. -/
structure PerPort (α : Type) where
  a : α
  b : α
  deriving DecidableEq, Repr

/-- The value of port `p`. -/
def PerPort.get {α : Type} (v : PerPort α) : Port → α
  | .a => v.a
  | .b => v.b

/-- `v` with the value of port `p` replaced. -/
def PerPort.set {α : Type} (v : PerPort α) (p : Port) (x : α) : PerPort α :=
  match p with
  | .a => { v with a := x }
  | .b => { v with b := x }

/-- Each port's value made by `f` from the port and its old value. -/
def PerPort.map {α β : Type} (f : Port → α → β) (v : PerPort α) : PerPort β :=
  ⟨f .a v.a, f .b v.b⟩

/-- The same value for both ports. -/
def PerPort.same {α : Type} (x : α) : PerPort α := ⟨x, x⟩

/-- One value for each of eight numbers: the axes, or the profile entries. -/
structure Eight (α : Type) where
  e0 : α
  e1 : α
  e2 : α
  e3 : α
  e4 : α
  e5 : α
  e6 : α
  e7 : α
  deriving DecidableEq, Repr

/-- The value numbered `n`. -/
def Eight.get {α : Type} (v : Eight α) (n : Fin 8) : α :=
  match n with
  | 0 => v.e0
  | 1 => v.e1
  | 2 => v.e2
  | 3 => v.e3
  | 4 => v.e4
  | 5 => v.e5
  | 6 => v.e6
  | 7 => v.e7

/-- `v` with the value numbered `n` replaced. -/
def Eight.set {α : Type} (v : Eight α) (n : Fin 8) (x : α) : Eight α :=
  match n with
  | 0 => { v with e0 := x }
  | 1 => { v with e1 := x }
  | 2 => { v with e2 := x }
  | 3 => { v with e3 := x }
  | 4 => { v with e4 := x }
  | 5 => { v with e5 := x }
  | 6 => { v with e6 := x }
  | 7 => { v with e7 := x }

/-- The eight values of a function. -/
def Eight.ofFn {α : Type} (f : Fin 8 → α) : Eight α :=
  ⟨f 0, f 1, f 2, f 3, f 4, f 5, f 6, f 7⟩

/-- Each value made by `f` from its number and its old value. -/
def Eight.map {α β : Type} (f : Fin 8 → α → β) (v : Eight α) : Eight β :=
  Eight.ofFn fun n => f n (v.get n)

/-- The same value eight times. -/
def Eight.same {α : Type} (x : α) : Eight α := Eight.ofFn fun _ => x

/-- The numbers 0 to 7 in rising order. -/
def allEight : List (Fin 8) := [0, 1, 2, 3, 4, 5, 6, 7]

end Sys2Proof
end

