-- ==== Sys2Proof/Syntax.lean ====
section
/-! DEFINITION. The commands of the PX8: one constructor for each row of spec/opcode_table.json, in the table's order.
The requests that a host sends inside a frame (10 Table 10-1) stand here too: they are what FRAME_BYTE hands on. -/

namespace Sys2Proof

/-- One of the sixteen edges of SCK that make up a byte on the wire (R158). -/
inductive SckEdge where
  /-- A falling edge: MISO changes. The first one begins the byte and decides its MISO content. -/
  | falls
  /-- A rising edge, with the level of MOSI that it samples. The eighth one completes the byte. -/
  | rises (mosi : Bool)
  deriving DecidableEq, Repr

/-- A block that posts notices (R142). -/
inductive PostSource where
  | axis (n : AxisId)
  | claimUnit
  deriving DecidableEq, Repr

/-- A block that reports to start-up control in a restart (R184). -/
inductive QuietSource where
  | axis (n : AxisId)
  | claimUnit
  deriving DecidableEq, Repr

/-- A block that answers the port unit of a DETACH (R131). -/
inductive AnswerSource where
  | axis (n : AxisId)
  | noticeUnit
  deriving DecidableEq, Repr

/-- The commands. Each names one event of one block; what the event takes (a request, an action, an answer) stands in
the state, where the event that sent it put it. -/
inductive Instr where
  /-- RST_LOW (R180). -/
  | rstLow
  /-- RST_RELEASE (R180, R182), with the level of the SUPV pin at that moment. -/
  | rstRelease (supv : Bool)
  /-- STARTING_END (R180). -/
  | startingEnd
  /-- HALT_PIN (R186), with the new level of the pin: asserted or released. -/
  | haltPin (asserted : Bool)
  /-- FILTERED_HALT_CHANGE (R186). -/
  | filteredHaltChange
  /-- AXIS_HALT_CHANGE (R67) at axis `n`. -/
  | axisHaltChange (n : AxisId)
  /-- PORT_HALT_LEVEL (R186) at port `p`. -/
  | portHaltLevel (p : Port)
  /-- FRAME_START (R159) on port `p`. -/
  | frameStart (p : Port)
  /-- FRAME_BYTE (R158, R160) on port `p`: one edge of the byte. -/
  | frameByte (p : Port) (e : SckEdge)
  /-- FRAME_END (R170) on port `p`. -/
  | frameEnd (p : Port)
  /-- REPLY_ARRIVAL (R169) at port `p`. -/
  | replyArrival (p : Port)
  /-- READ_DEVICE (R187) at port `p`. -/
  | readDevice (p : Port)
  /-- READ_PORT_STATUS (R173) at port `p`. -/
  | readPortStatus (p : Port)
  /-- CLEAR_PORT_ERRORS (R174) at port `p`. -/
  | clearPortErrors (p : Port)
  /-- RESTART (R183) from port `p` at start-up control. -/
  | restart (p : Port)
  /-- AXIS_RESTART_STEP (R27) at axis `n`. -/
  | axisRestartStep (n : AxisId)
  /-- CLAIM_RESTART_STEP (R141). -/
  | claimRestartStep
  /-- REPORT_ANSWER (R183) at the claim unit. -/
  | reportAnswer
  /-- QUIET_REPORT (R184) from `src` at start-up control. -/
  | quietReport (src : QuietSource)
  /-- RESTART_CLEAR (R156) at the notice unit. -/
  | restartClear
  /-- RESTART_END (R184) at start-up control. -/
  | restartEnd
  /-- CLAIM (R126) from port `p` at the claim unit. -/
  | claim (p : Port)
  /-- RELEASE (R127) from port `p` at the claim unit. -/
  | release (p : Port)
  /-- RELEASE_ACTION (R127) at axis `n`. -/
  | releaseAction (n : AxisId)
  /-- KEEP (R128) from port `p` at the claim unit. -/
  | keep (p : Port)
  /-- SEIZE (R129) from port `p` at the claim unit. -/
  | seize (p : Port)
  /-- SEIZE_ACTION (R130) at axis `n`. -/
  | seizeAction (n : AxisId)
  /-- DETACH (R131) from port `p` at the claim unit. -/
  | detach (p : Port)
  /-- DETACH_ACTION (R131) at axis `n`. -/
  | detachAction (n : AxisId)
  /-- DETACH_CLEAR (R155) at the notice unit. -/
  | detachClear
  /-- DETACH_ANSWER (R131) from `src` at port `p`. -/
  | detachAnswer (p : Port) (src : AnswerSource)
  /-- LEASE_EXPIRY (R132) of axis `n` at the claim unit. -/
  | leaseExpiry (n : AxisId)
  /-- LAPSE_ACTION (R132) at axis `n`. -/
  | lapseAction (n : AxisId)
  /-- AUTHORISATION (R124) of the request of port `p` at the claim unit. -/
  | authorisation (p : Port)
  /-- GO (R116) from port `p` at the claim unit. -/
  | go (p : Port)
  /-- START (R117) at axis `n`. -/
  | start (n : AxisId)
  /-- START_ANSWER (R118) from axis `n` at port `p`. -/
  | startAnswer (p : Port) (n : AxisId)
  /-- ENABLE (R15) at axis `n`. -/
  | enable (n : AxisId)
  /-- DISABLE (R16, R17) at axis `n`. -/
  | disable (n : AxisId)
  /-- CONFIGURE (R18 to R21) at axis `n`. -/
  | configure (n : AxisId)
  /-- SET_POSITION (R101) at axis `n`. -/
  | setPosition (n : AxisId)
  /-- CLEAR_FAULT (R24) at axis `n`. -/
  | clearFault (n : AxisId)
  /-- QUEUE (R35 to R40) at axis `n`. -/
  | queue (n : AxisId)
  /-- CANCEL (R52) at axis `n`. -/
  | cancel (n : AxisId)
  /-- PAUSE (R70) at axis `n`. -/
  | pause (n : AxisId)
  /-- RESUME (R71) at axis `n`. -/
  | resume (n : AxisId)
  /-- SKIP (R73) at axis `n`. -/
  | skip (n : AxisId)
  /-- STOP (R76) at axis `n`. -/
  | stop (n : AxisId)
  /-- READ_AXIS (R25) from port `p` at axis `n`. -/
  | readAxis (n : AxisId) (p : Port)
  /-- CLAIM_ASK (R136) of axis `n` at the claim unit. -/
  | claimAsk (n : AxisId)
  /-- CLAIM_ANSWER (R26) at axis `n`. -/
  | claimAnswer (n : AxisId)
  /-- READ_QUEUE (R54) from port `p` at axis `n`. -/
  | readQueue (n : AxisId) (p : Port)
  /-- DEFINE_PROFILE (R93) from port `p` at the profile store. -/
  | defineProfile (p : Port)
  /-- DELETE_PROFILE (R94) from port `p` at the profile store. -/
  | deleteProfile (p : Port)
  /-- READ_PROFILE (R95) from port `p` at the profile store. -/
  | readProfile (p : Port)
  /-- ADMISSION_TAKE (R39) of axis `n` at the profile store. -/
  | admissionTake (n : AxisId)
  /-- CONFIGURATION_EXCHANGE (R20) of axis `n` at the profile store. -/
  | configurationExchange (n : AxisId)
  /-- PARK_TAKE (R90) of axis `n` at the profile store. -/
  | parkTake (n : AxisId)
  /-- GIVE (R91) of axis `n` at the profile store. -/
  | give (n : AxisId)
  /-- PERIOD_EXPIRY (R59) at axis `n`. -/
  | periodExpiry (n : AxisId)
  /-- PULSE_END (R63) at axis `n`. -/
  | pulseEnd (n : AxisId)
  /-- OVERCURRENT (R81) at axis `n`. -/
  | overcurrent (n : AxisId)
  /-- NOTICE_POSTING (R145, R146) from `src` at the notice unit. -/
  | noticePosting (src : PostSource)
  /-- OWNER_CHANGE_REPORT (R147) at the notice unit. -/
  | ownerChangeReport
  /-- READ_NOTICES (R152) from port `p` at the notice unit. -/
  | readNotices (p : Port)
  /-- ACK_NOTICES (R153) from port `p` at the notice unit. -/
  | ackNotices (p : Port)
  /-- SET_NOTICE_MASK (R148) from port `p` at the notice unit. -/
  | setNoticeMask (p : Port)
  /-- SET_WATCH (R149) from port `p` at the notice unit. -/
  | setWatch (p : Port)
  deriving DecidableEq, Repr

/-- The argument bytes of CONFIGURE after the axis number (10 Table 10-1). -/
structure ConfigureArgs where
  loLimit : Word16
  hiLimit : Word16
  homePosition : Word16
  homeOverdrive : Word16
  parkPosition : Word16
  defaultPair : Byte
  parkPair : Byte
  behaviour : Byte
  deriving DecidableEq, Repr

/-- The argument bytes of QUEUE after the axis number (10 Table 10-1). -/
structure QueueArgs where
  kind : Byte
  value : Word16
  tag : Byte
  profileRate : Byte
  flags : Byte
  deriving DecidableEq, Repr

/-- The seven field bytes of DEFINE_PROFILE, as they travel (10 Table 10-1). -/
structure ProfileArgs where
  fwdMain : Byte
  fwdTailCount : Byte
  fwdTailDuty : Byte
  revLead : Byte
  revMain : Byte
  revFinal : Byte
  revTailCount : Byte
  deriving DecidableEq, Repr

/-- The eleven requests that the claim unit authorises and passes to an axis controller (R124), without the axis
number. -/
inductive Mutation where
  | enable
  | disable
  | configure (c : ConfigureArgs)
  | setPosition (value : Word16)
  | clearFault
  | queue (q : QueueArgs)
  | cancel (tag : Byte)
  | pause
  | resume
  | skip
  | stop
  deriving DecidableEq, Repr

/-- The requests of 10 Table 10-1, with their argument bytes as received: the port unit checks no argument (R164). -/
inductive Request where
  | readDevice
  | readPortStatus
  | clearPortErrors
  | restart
  | claim (axis lease : Byte)
  | release (axis action : Byte)
  | keep (mask : Byte)
  | seize (axis lease keepMotion : Byte)
  | detach
  | mutate (axis : Byte) (m : Mutation)
  | readAxis (axis : Byte)
  | readQueue (axis : Byte)
  | go (mask : Byte)
  | defineProfile (entry : Byte) (fields : ProfileArgs)
  | deleteProfile (entry : Byte)
  | readProfile (entry : Byte)
  | readNotices (axis : Byte)
  | ackNotices (axis kinds : Byte)
  | setNoticeMask (kinds : Byte)
  | setWatch (mask : Byte)
  deriving DecidableEq, Repr

end Sys2Proof
end

