-- ==== Sys2Proof/Decode.lean ====
section
/-! DEFINITION. From bytes to commands and requests, and back.
spec/opcode_table.json gives no row any bits, so no word spells a command. The bits that the spec does give are those of
the requests inside a frame: their codes and argument bytes (10 Table 10-1) and their check byte (R163). -/

namespace Sys2Proof

/-- The command that a word spells by the table's bits: none, since the table gives no row bits. -/
def decodeTableWord (_nbits _w : Nat) : Option Instr := none

/-- The number of argument bytes that a request code fixes (R164, 10 Table 10-1); none where the byte is no request
code. -/
def argCount (code : Byte) : Option Nat :=
  match code.toNat with
  | 0x01 => some 0
  | 0x02 => some 0
  | 0x03 => some 0
  | 0x04 => some 0
  | 0x10 => some 2
  | 0x11 => some 2
  | 0x12 => some 1
  | 0x13 => some 3
  | 0x14 => some 0
  | 0x20 => some 1
  | 0x21 => some 1
  | 0x22 => some 14
  | 0x23 => some 1
  | 0x24 => some 3
  | 0x25 => some 1
  | 0x30 => some 7
  | 0x31 => some 2
  | 0x32 => some 1
  | 0x33 => some 1
  | 0x34 => some 1
  | 0x35 => some 1
  | 0x36 => some 1
  | 0x37 => some 1
  | 0x40 => some 8
  | 0x41 => some 1
  | 0x42 => some 1
  | 0x50 => some 1
  | 0x51 => some 2
  | 0x52 => some 1
  | 0x53 => some 1
  | _ => none

/-- Two bytes of the wire as one quantity, most significant byte first (R176). -/
def word16 (hi lo : Byte) : Word16 := hi ++ lo

/-- The more significant byte of a 16-bit quantity: the one that travels first (R176). -/
def highByte (w : Word16) : Byte := w.extractLsb' 8 8

/-- The less significant byte of a 16-bit quantity. -/
def lowByte (w : Word16) : Byte := w.extractLsb' 0 8

/-- The byte of eight bits in the order in which they are sampled, the most significant first (R158). -/
def byteOfBits (bits : List Bool) : Byte := bits.foldl (fun b m => (b <<< 1) ||| (if m then 1 else 0)) 0

/-- One shift of the CRC-8 register: left by one, combined with 07h where the bit shifted out was 1 (R163). -/
def crcShift (r : Byte) : Byte := if r.msb then (r <<< 1) ^^^ 0x07 else r <<< 1

/-- The CRC-8 register after one more byte: combined by exclusive-or, then shifted eight times (R163). -/
def crcByte (r b : Byte) : Byte :=
  crcShift (crcShift (crcShift (crcShift (crcShift (crcShift (crcShift (crcShift (r ^^^ b))))))))

/-- The CRC-8 of a list of bytes, in the order they travel, from the initial value 00h (R163). -/
def crc8 (bytes : List Byte) : Byte := bytes.foldl crcByte 0

/-- A request without arguments. -/
def args0 (r : Request) : List Byte → Option Request
  | [] => some r
  | _ => none

/-- A request with one argument byte. -/
def args1 (f : Byte → Request) : List Byte → Option Request
  | [x] => some (f x)
  | _ => none

/-- A request with two argument bytes. -/
def args2 (f : Byte → Byte → Request) : List Byte → Option Request
  | [x, y] => some (f x y)
  | _ => none

/-- A request with three argument bytes. -/
def args3 (f : Byte → Byte → Byte → Request) : List Byte → Option Request
  | [x, y, z] => some (f x y z)
  | _ => none

/-- CONFIGURE's arguments: the axis, five 16-bit quantities, three packed bytes (10 Table 10-1). -/
def configureRequest : List Byte → Option Request
  | [axis, lo1, lo0, hi1, hi0, hp1, hp0, ho1, ho0, pp1, pp0, dPair, pPair, behaviour] =>
    some (.mutate axis (.configure
      { loLimit := word16 lo1 lo0, hiLimit := word16 hi1 hi0, homePosition := word16 hp1 hp0
        homeOverdrive := word16 ho1 ho0, parkPosition := word16 pp1 pp0
        defaultPair := dPair, parkPair := pPair, behaviour := behaviour }))
  | _ => none

/-- QUEUE's arguments: the axis, the kind, the value, the tag, the profile and rate codes, the flags (10 Table 10-1). -/
def queueRequest : List Byte → Option Request
  | [axis, kind, v1, v0, tag, profileRate, flags] =>
    some (.mutate axis (.queue
      { kind := kind, value := word16 v1 v0, tag := tag, profileRate := profileRate, flags := flags }))
  | _ => none

/-- DEFINE_PROFILE's arguments: the entry and its seven fields (10 Table 10-1). -/
def defineRequest : List Byte → Option Request
  | [entry, fm, ftc, ftd, rl, rm, rf, rtc] =>
    some (.defineProfile entry
      { fwdMain := fm, fwdTailCount := ftc, fwdTailDuty := ftd, revLead := rl, revMain := rm, revFinal := rf
        revTailCount := rtc })
  | _ => none

/-- The request that a code and its argument bytes make (10 Table 10-1); none where the code is no request code or the
number of arguments is not the one it fixes. -/
def requestOf (code : Byte) (args : List Byte) : Option Request :=
  match code.toNat with
  | 0x01 => args0 .readDevice args
  | 0x02 => args0 .readPortStatus args
  | 0x03 => args0 .clearPortErrors args
  | 0x04 => args0 .restart args
  | 0x10 => args2 .claim args
  | 0x11 => args2 .release args
  | 0x12 => args1 .keep args
  | 0x13 => args3 .seize args
  | 0x14 => args0 .detach args
  | 0x20 => args1 (.mutate · .enable) args
  | 0x21 => args1 (.mutate · .disable) args
  | 0x22 => configureRequest args
  | 0x23 => args1 .readAxis args
  | 0x24 => args3 (fun axis v1 v0 => .mutate axis (.setPosition (word16 v1 v0))) args
  | 0x25 => args1 (.mutate · .clearFault) args
  | 0x30 => queueRequest args
  | 0x31 => args2 (fun axis tag => .mutate axis (.cancel tag)) args
  | 0x32 => args1 .readQueue args
  | 0x33 => args1 (.mutate · .pause) args
  | 0x34 => args1 (.mutate · .resume) args
  | 0x35 => args1 (.mutate · .skip) args
  | 0x36 => args1 (.mutate · .stop) args
  | 0x37 => args1 .go args
  | 0x40 => defineRequest args
  | 0x41 => args1 .deleteProfile args
  | 0x42 => args1 .readProfile args
  | 0x50 => args1 .readNotices args
  | 0x51 => args2 .ackNotices args
  | 0x52 => args1 .setNoticeMask args
  | 0x53 => args1 .setWatch args
  | _ => none

/-- The request that the bytes before a check byte make, the code first (R164). -/
def parseRequest (bytes : List Byte) : Option Request :=
  match bytes with
  | [] => none
  | code :: args => requestOf code args

/-- The two bytes of a 16-bit quantity, in the order they travel (R176). -/
def wordBytes (w : Word16) : List Byte := [highByte w, lowByte w]

/-- The code and argument bytes of one of the eleven authorised requests on the axis byte `axis` (10 Table 10-1). -/
def encodeMutation (axis : Byte) (m : Mutation) : List Byte :=
  match m with
  | .enable => [0x20, axis]
  | .disable => [0x21, axis]
  | .configure c =>
    [0x22, axis] ++ wordBytes c.loLimit ++ wordBytes c.hiLimit ++ wordBytes c.homePosition
      ++ wordBytes c.homeOverdrive ++ wordBytes c.parkPosition ++ [c.defaultPair, c.parkPair, c.behaviour]
  | .setPosition v => [0x24, axis] ++ wordBytes v
  | .clearFault => [0x25, axis]
  | .queue q => [0x30, axis, q.kind] ++ wordBytes q.value ++ [q.tag, q.profileRate, q.flags]
  | .cancel tag => [0x31, axis, tag]
  | .pause => [0x33, axis]
  | .resume => [0x34, axis]
  | .skip => [0x35, axis]
  | .stop => [0x36, axis]

/-- The code and argument bytes of a request, in the order they travel (10 Table 10-1). -/
def encodeRequest (r : Request) : List Byte :=
  match r with
  | .readDevice => [0x01]
  | .readPortStatus => [0x02]
  | .clearPortErrors => [0x03]
  | .restart => [0x04]
  | .claim axis lease => [0x10, axis, lease]
  | .release axis action => [0x11, axis, action]
  | .keep mask => [0x12, mask]
  | .seize axis lease keepMotion => [0x13, axis, lease, keepMotion]
  | .detach => [0x14]
  | .mutate axis m => encodeMutation axis m
  | .readAxis axis => [0x23, axis]
  | .readQueue axis => [0x32, axis]
  | .go mask => [0x37, mask]
  | .defineProfile entry f =>
    [0x40, entry, f.fwdMain, f.fwdTailCount, f.fwdTailDuty, f.revLead, f.revMain, f.revFinal, f.revTailCount]
  | .deleteProfile entry => [0x41, entry]
  | .readProfile entry => [0x42, entry]
  | .readNotices axis => [0x50, axis]
  | .ackNotices axis kinds => [0x51, axis, kinds]
  | .setNoticeMask kinds => [0x52, kinds]
  | .setWatch mask => [0x53, mask]

end Sys2Proof
end

