-- ==== Sys2Proof/Config.lean ====
section
/-! DEFINITION. What the spec fixes for every PX8: sizes, times and identity. The spec leaves no value open ("Every field
named in this manual has a stated cold value", 00_scope.md Table 0-2), so no free value stands here. -/

namespace Sys2Proof.Config

/-- The waiting queue holds at most four segments (R32). -/
def queueDepth : Nat := 4

/-- The lease unit, in du (00_scope.md 0.4.2, R123). -/
def leaseUnit : Nat := 40

/-- How long the HALT pin must hold a new level, in du (R186). -/
def haltFilterTime : Nat := 2

/-- The longest time from the release of RST to READY, in du (R180). -/
def startUpTime : Nat := 4

/-- The greatest value of error_counter (R171). -/
def errorCounterMax : Nat := 255

/-- The greatest value of done_count (R144). -/
def doneCountMax : Nat := 15

/-- The identity bytes of READ_DEVICE: vendor, part, revision, axis count, queue depth (R187, 10 Table 10-5). -/
def identity : List Byte := [0x54, 0x38, 0x01, 0x08, 0x04]

end Sys2Proof.Config
end

