-- ==== Sys2Proof/Machine/State.lean ====
section
/-! DEFINITION. The state of the PX8: what each of its blocks owns (00_scope.md Table 0-1), the messages that are on
their way from one block to another, and the queue of waiting commands. Plain data throughout. -/

namespace Sys2Proof.Machine

/-! ## Names the spec gives values -/

/-- The axis states (R6, Table 1-3). -/
inductive AxisState where
  | off
  | idle
  | running
  | armed
  | held
  | stopping
  | faulted
  deriving DecidableEq, Repr

/-- One of the two coil outputs of an axis; also the values of phase (R8). -/
inductive Coil where
  | a
  | b
  deriving DecidableEq, Repr

/-- The causes of a fault; fault_kind is one of them, or NONE (R22). -/
inductive FaultCause where
  | overcurrent
  | noReference
  deriving DecidableEq, Repr

/-- The direction of a segment or of a pulse (R30, Table 3-2). -/
inductive Direction where
  | forward
  | reverse
  deriving DecidableEq, Repr

/-- Why an axis is STOPPING (R78). -/
inductive Stopping where
  | stop
  | park
  | restart
  deriving DecidableEq, Repr

/-- What a pulse end does to its segment (Table 3-2, R79): NONE, SKIP, or one of STOP, PARK and RESTART, which run in
STOPPING (R63). -/
inductive EndAction where
  | none
  | skip
  | finish (why : Stopping)
  deriving DecidableEq, Repr

/-- The values of lapse_action (R5). -/
inductive LapseAction where
  | stop
  | park
  | finish
  deriving DecidableEq, Repr

/-- The reply status codes (10 Table 10-6). -/
inductive Status where
  | ok
  | notOwner
  | heldElsewhere
  | notSupervisor
  | axisOff
  | axisFaulted
  | badState
  | badArgument
  | queueFull
  | profileEmpty
  | profileInUse
  | profileReadOnly
  | fitConflict
  | outOfLimits
  deriving DecidableEq, Repr

/-- A reply: its status and its data bytes, which are empty unless the status is OK (R168). -/
structure Reply where
  status : Status
  data : List Byte
  deriving DecidableEq, Repr

/-- The notice kinds, in the order of their bits (10 Table 10-4). -/
inductive NoticeKind where
  | done
  | low
  | idle
  | limit
  | trunc
  | fault
  | lapsed
  | lost
  deriving DecidableEq, Repr

/-- The frame error classes (R170). -/
inductive FrameError where
  | unknownCode
  | checkFailed
  | shortFrame
  | partialByte
  | replyCut
  | extraBytes
  deriving DecidableEq, Repr

/-- The port frame states (Table 9-2). -/
inductive FrameState where
  | idle
  | command
  | arguments
  | waiting
  | replying
  | draining
  | rejecting
  deriving DecidableEq, Repr

/-- The phases of start-up control (Table 11-1). -/
inductive StartPhase where
  | inReset
  | starting
  | serving
  | restartStopping
  | restartClearing
  deriving DecidableEq, Repr

/-- What a port's MISO carries (R158): nothing, or a level. -/
inductive Miso where
  | highImpedance
  | level (high : Bool)
  deriving DecidableEq, Repr

/-- An axis's owner: none for NONE (R122). -/
abbrev Owner := Option Port

/-! ## Segments and pulses -/

/-- The kind of a segment with the value and the profile that the kind has (Tables 2-1 and 2-2): a DWELL has no profile,
a HOME no value. -/
inductive Job where
  /-- The value is read as a signed quantity (R178). -/
  | move (value : Word16) (profile : ProfileId)
  | goto (target : Word16) (profile : ProfileId)
  | home (profile : ProfileId)
  | dwell (periods : Word16)
  | park (target : Word16) (profile : ProfileId)
  deriving DecidableEq, Repr

/-- A segment as admitted (R29). -/
structure Segment where
  job : Job
  tag : Byte
  rate : RateCode
  gated : Bool
  notify : Bool
  deriving DecidableEq, Repr

/-- The active segment: a segment with its resolved fields (R30). -/
structure Active where
  seg : Segment
  direction : Option Direction
  resolvedCount : Nat
  remaining : Nat
  clipped : Bool
  deriving DecidableEq, Repr

/-- The pulse in progress (Table 3-2). -/
structure Pulse where
  direction : Direction
  mainPin : Coil
  length : Nat
  cutAt : Nat
  truncated : Bool
  elapsed : Nat
  endAction : EndAction
  deriving DecidableEq, Repr

/-! ## The profile store -/

/-- The seven pulse fields of a profile entry (Table 4-1). -/
structure Shape where
  fwdMain : Nat
  fwdTailCount : Nat
  /-- QUARTER is no, HALF is yes (10 Table 10-2). -/
  fwdTailHalf : Bool
  revLead : Nat
  revMain : Nat
  revFinal : Nat
  revTailCount : Nat
  deriving DecidableEq, Repr

/-- The state of a profile entry with the contents that the state has (R86). -/
inductive EntryState where
  | empty
  | defined (shape : Shape)
  | builtIn (shape : Shape)
  deriving DecidableEq, Repr

/-- An entry of the profile table (R84, R85). -/
structure Entry where
  state : EntryState
  refCount : Nat
  deriving DecidableEq, Repr

/-- The profile store (R84). -/
structure ProfileStore where
  entries : Eight Entry
  /-- A profile request handed on by a port and not yet taken. -/
  inbox : PerPort (Option Request)
  deriving DecidableEq, Repr

/-! ## The notice unit -/

/-- A notice record (R144). -/
structure NoticeRecord where
  pending : Byte
  lastDoneTag : Byte
  doneCount : Nat
  deriving DecidableEq, Repr

/-- The notice unit (R142, R144, R147 to R149). -/
structure NoticeUnit where
  records : PerPort (Eight NoticeRecord)
  noticeMask : PerPort Byte
  watchMask : PerPort Byte
  routing : Eight Owner
  /-- A notice request handed on by a port and not yet taken. -/
  inbox : PerPort (Option Request)
  /-- The restart clear, sent and not yet taken (R184). -/
  clearIn : Bool
  deriving DecidableEq, Repr

/-- A posting of an axis controller (R143); the tag is that of the completing segment and is used by DONE alone. -/
structure Posting where
  kind : NoticeKind
  tag : Byte
  deriving DecidableEq, Repr

/-- What the claim unit sends the notice unit (R135). -/
inductive NoticeMsg where
  /-- A change of owner; `answered` is yes for a report of the restart step (R142). -/
  | report (axis : AxisId) (owner : Owner) (answered : Bool)
  /-- LAPSED or LOST for an axis, addressed to a port (R146). -/
  | posting (kind : NoticeKind) (axis : AxisId) (port : Port)
  /-- The clear of a DETACH for its requester (R131). -/
  | clear (port : Port)
  deriving DecidableEq, Repr

/-! ## The claim unit -/

/-- An entry of the claim table (R122). lease_remaining is read from `leaseLeft`, the du that remain until the expiry
(R123). -/
structure ClaimEntry where
  owner : Owner
  leasePeriod : Byte
  leaseLeft : Nat
  deriving DecidableEq, Repr

/-- The claim unit (R122). -/
structure ClaimUnit where
  entries : Eight ClaimEntry
  /-- A request handed on by a port and not yet taken. -/
  inbox : PerPort (Option Request)
  /-- Reports, postings and clears on their way to the notice unit, oldest first (R135). -/
  toNotice : List NoticeMsg
  /-- The restart step, sent and not yet taken (R183). -/
  restartIn : Bool
  /-- Restart reports whose answer has not been taken (R183). -/
  awaiting : Nat
  /-- The notice unit's answers on their way (R142). -/
  answersIn : Nat
  deriving DecidableEq, Repr

/-- What the claim unit sends an axis controller (R125, R133). -/
inductive AxisMsg where
  /-- An authorised request of a port. -/
  | request (port : Port) (m : Mutation)
  /-- The start of a GO (R116). -/
  | start (port : Port)
  /-- The lapse action of an expiry (R132). -/
  | lapse
  /-- The release action, STOP or PARK (R127). -/
  | release (port : Port) (park : Bool)
  /-- The seize action (R130). -/
  | seize (port : Port)
  /-- The detach action (R131). -/
  | detach (port : Port)
  deriving DecidableEq, Repr

/-! ## The axis controllers -/

/-- The configuration part of an axis record (Table 1-1). -/
structure AxisConfig where
  loLimit : Word16
  hiLimit : Word16
  homePosition : Word16
  homeOverdrive : Word16
  parkPosition : Word16
  defaultProfile : ProfileId
  defaultRate : RateCode
  parkProfile : ProfileId
  parkRate : RateCode
  lowThreshold : Fin 4
  lapseAction : LapseAction
  deriving DecidableEq, Repr

/-- A read request at an axis controller: its kind, and whether the axis byte named this axis in full (R176). -/
structure AxisRead where
  queue : Bool
  inRange : Bool
  deriving DecidableEq, Repr

/-- The fields that READ_AXIS captures (R25). -/
structure AxisView where
  state : AxisState
  position : Word16
  positionValid : Bool
  phase : Coil
  pauseFlag : Bool
  faultKind : Option FaultCause
  waitingLength : Nat
  activeTag : Byte
  remaining : Nat
  deriving DecidableEq, Repr

/-- Which segment's reference an axis controller asks the profile store to give back (R31). -/
inductive Leaving where
  /-- The oldest waiting segment, in a discard of the queue (R33). -/
  | oldest
  /-- The oldest waiting segment with a tag, in a CANCEL (R52). -/
  | tagged (tag : Byte)
  /-- The active segment, completing (R50) or discarded (R34). -/
  | active (completing : Bool)
  deriving DecidableEq, Repr

/-- What an axis controller sends to another block at the end of an event, or in it (DEDUCED, safe; log entry 6). -/
inductive Sent where
  /-- A reply to a port (R165). -/
  | reply (port : Port) (r : Reply)
  /-- The answer to a start: started or not started (R118). -/
  | answerStart (port : Port) (started : Bool)
  /-- The answer to a DETACH (R131). -/
  | answerDetach (port : Port)
  /-- The quiet report of a restart (R183). -/
  | quiet
  deriving DecidableEq, Repr

/-- A part of an axis controller's event. An event that holds an exchange with the profile store keeps the parts that
are still to be made (R1). -/
inductive Task where
  /-- Discard the waiting queue (R33). -/
  | dropWaiting
  /-- Discard the active segment (R34). -/
  | dropActive
  /-- Complete the active segment, steps 1 to 4 (R50). -/
  | complete
  /-- Activate the next head, or enter IDLE and post IDLE (R50 step 5, R74 steps 2 and 3). -/
  | next
  /-- Enter IDLE, with an IDLE notice or without; a fault is cleared with it (R12, R24, R27). -/
  | enterIdle (notice : Bool)
  /-- Activate the head of an axis that has entered IDLE with a segment waiting (R12). -/
  | wake
  /-- Enter FAULTED and post FAULT (R22). -/
  | enterFaulted (cause : FaultCause)
  /-- Decide whether a PARK segment is placed, and ask for its reference (R107, R109 step 1). -/
  | park
  /-- Let the pulse in progress finish in STOPPING (R76, R77, R27). -/
  | finishPulse (why : Stopping)
  /-- Clear pause_flag (R27). -/
  | clearPause
  /-- Clear pause_flag and the fault, and enter OFF (R16, R17). -/
  | enterOff
  /-- The period's expiry that falls at a pulse's end: period_expired becomes yes (R64, R59). -/
  | expire
  /-- Begin the next step or dwell period where R58 lets it begin. -/
  | begin
  /-- Remove the waiting segments with a tag, of which `removed` are gone, and reply to `port` (R52). -/
  | cancel (port : Port) (tag : Byte) (removed : Nat)
  /-- Reply OK with the waiting length (R40). -/
  | replyLength (port : Port)
  /-- Send something to another block. -/
  | send (x : Sent)
  deriving DecidableEq, Repr

/-- What an axis controller waits for in the middle of an event (R1, R26). -/
inductive Busy where
  | none
  /-- A give, then the rest of the event (R91). -/
  | give (what : Leaving) (rest : List Task)
  /-- The admission take of a QUEUE from a port (R39). -/
  | admission (port : Port) (seg : Segment)
  /-- The configuration exchange of a CONFIGURE from a port (R20). -/
  | configure (port : Port) (config : AxisConfig)
  /-- The park take, then the rest of the event (R90). -/
  | parkTake (rest : List Task)
  /-- The claim unit's answer to the ask of a READ_AXIS from a port: owner and lease_remaining (R26). -/
  | claimAsk (port : Port) (view : AxisView) (answer : Option (Owner × Byte))
  deriving DecidableEq, Repr

/-- An axis controller with its record (R1). -/
structure Axis where
  config : AxisConfig
  state : AxisState
  position : Word16
  positionValid : Bool
  phase : Coil
  pauseFlag : Bool
  faultKind : Option FaultCause
  periodExpired : Bool
  truncReported : Bool
  haltSeen : Bool
  /-- The time left in the current period, in du (R57). -/
  periodLeft : Nat
  dwellMark : Bool
  /-- The waiting queue, oldest first (R32). -/
  waiting : List Segment
  /-- The active slot (R32). -/
  slot : Option Active
  pulse : Option Pulse
  /-- The coil driver has detected an overcurrent that the controller has not yet taken (R81). -/
  tripped : Bool
  /-- What the claim unit has sent and the controller has not yet taken, oldest first (R125). -/
  fromClaim : List AxisMsg
  /-- Read requests handed on by the ports and not yet taken (R1). -/
  reads : PerPort (Option AxisRead)
  /-- Changes of the filtered HALT level not yet taken, oldest first (R186). -/
  haltIn : List Bool
  /-- The restart step, sent and not yet taken (R183). -/
  restartIn : Bool
  busy : Busy
  /-- Notices posted and not yet taken by the notice unit, oldest first (R142). -/
  posts : List Posting
  deriving DecidableEq, Repr

/-! ## The port units -/

/-- What a port unit gathers for a reply that it builds itself. -/
inductive Collect where
  | none
  /-- A GO (R118): the axes named, those that have answered started, those whose answer is awaited. -/
  | go (named started awaited : Byte)
  /-- A DETACH (R131): detached_mask, the axes whose answer is awaited, whether the notice unit's is. -/
  | detach (mask awaited : Byte) (clearAwaited : Bool)
  deriving DecidableEq, Repr

/-- A port unit (R158 to R175). -/
structure PortUnit where
  /-- The SEL pin is asserted. -/
  sel : Bool
  miso : Miso
  frame : FrameState
  /-- A byte has begun and is not complete (R158). -/
  inByte : Bool
  /-- SCK is low: the last edge of the byte in progress was a falling one (R158). -/
  sckLow : Bool
  /-- The bits of the byte in progress sampled from MOSI so far, the first one first (R158). -/
  bits : List Bool
  /-- The MISO content of the byte, decided as it began (R158). -/
  outByte : Byte
  /-- The request bytes received in this frame, the code first (R164). -/
  rx : List Byte
  /-- The attention summary captured at the assertion of SEL (R151). -/
  summary : Byte
  /-- The first byte after the check byte has begun (R167). -/
  waited : Bool
  /-- The bytes of this frame's reply that are still to be returned after the ready marker (R168). -/
  out : Option (List Byte)
  /-- The frame error of this frame, once one has arisen (R170). -/
  frameError : Option FrameError
  /-- A request held in its frame (R166). -/
  held : Option Request
  /-- The request in hand (R165). -/
  inHand : Option Request
  /-- The request in hand came in the frame in progress. -/
  mine : Bool
  /-- A reply on its way to this port (R165). -/
  replyIn : Option Reply
  collect : Collect
  /-- Answers to starts on their way (R118): started or not started. -/
  startAnswers : Eight (Option Bool)
  /-- Axis controllers' answers to a DETACH on their way (R131). -/
  detachAnswers : Eight Bool
  /-- The notice unit's answer to a DETACH on its way (R131). -/
  clearAnswer : Bool
  errorCounter : Nat
  firstError : Option FrameError
  lastFrameGood : Bool
  fresh : Bool
  /-- The filtered HALT level that the port last took (R186). -/
  haltLevel : Bool
  /-- Changes of the filtered HALT level not yet taken, oldest first (R186). -/
  haltIn : List Bool
  deriving DecidableEq, Repr

/-! ## Start-up control -/

/-- Start-up control (R180 to R186). -/
structure StartUp where
  phase : StartPhase
  /-- The du of STARTING that are left (R180). -/
  startLeft : Nat
  /-- The level of the SUPV pin. -/
  supvPin : Bool
  /-- The supervisor strap latch (R182). -/
  supvLatch : Bool
  /-- The HALT pin is asserted. -/
  haltPin : Bool
  /-- The filtered HALT level is asserted (R186). -/
  haltFiltered : Bool
  /-- The du for which the pin has differed from the filtered level (R186). -/
  haltMeasure : Nat
  /-- A RESTART handed on by a port and not yet taken (R183). -/
  restartWaiting : PerPort Bool
  /-- The port whose RESTART is in progress. -/
  restarter : Option Port
  /-- The axes whose quiet has been received (R184). -/
  quietSeen : Eight Bool
  /-- The claim unit's done has been received (R184). -/
  doneSeen : Bool
  /-- Quiet reports on their way. -/
  quietSent : Eight Bool
  /-- The claim unit's done report on its way. -/
  doneSent : Bool
  /-- The notice unit's answer to the restart clear on its way (R184). -/
  clearAnswered : Bool
  deriving DecidableEq, Repr

/-! ## The whole -/

/-- The PX8 with the commands that wait. -/
structure State where
  /-- The commands that wait, the next one first (the model's own field). -/
  pending : List Instr
  start : StartUp
  ports : PerPort PortUnit
  claim : ClaimUnit
  store : ProfileStore
  notice : NoticeUnit
  axes : Eight Axis
  deriving DecidableEq, Repr

/-- The faults that stop the machine: none. The device's own faults and frame errors are state (R22, R170), and a
command for which nothing waits leaves the state as it is (DESIGN CHOICE, safe; log entry 3). -/
inductive Fault where
  deriving DecidableEq, Repr

/-- The refusals. -/
inductive Refusal where
  /-- Raised by the dispatcher for a command whose meaning is not modelled; safe. No arm raises it. -/
  | notModelled (mnemonic : String)
  deriving DecidableEq, Repr

/-! ## Cold values -/

/-- The contents of built-in entry 0 (Table 4-2). -/
def builtInShape : Shape :=
  { fwdMain := 10, fwdTailCount := 4, fwdTailHalf := false, revLead := 3, revMain := 8, revFinal := 10
    revTailCount := 0 }

/-- The configuration part at cold start (Table 1-1). -/
def AxisConfig.cold : AxisConfig :=
  { loLimit := 0, hiLimit := 65535, homePosition := 0, homeOverdrive := 720, parkPosition := 0
    defaultProfile := 0, defaultRate := 2, parkProfile := 0, parkRate := 2, lowThreshold := 1, lapseAction := .stop }

/-- An axis controller at cold start (Tables 1-1 and 1-2, R32, R57, R60). -/
def Axis.cold : Axis :=
  { config := AxisConfig.cold, state := .off, position := 0, positionValid := false, phase := .a, pauseFlag := false
    faultKind := none, periodExpired := true, truncReported := false, haltSeen := false, periodLeft := 0
    dwellMark := false, waiting := [], slot := none, pulse := none, tripped := false, fromClaim := []
    reads := PerPort.same none, haltIn := [], restartIn := false, busy := .none, posts := [] }

/-- An entry of the claim table at cold start, and whenever it has no owner (R122). -/
def ClaimEntry.free : ClaimEntry := { owner := none, leasePeriod := 0, leaseLeft := 0 }

/-- The claim unit at cold start (R140). -/
def ClaimUnit.cold : ClaimUnit :=
  { entries := Eight.same ClaimEntry.free, inbox := PerPort.same none, toNotice := [], restartIn := false
    awaiting := 0, answersIn := 0 }

/-- The profile store at cold start (R88). -/
def ProfileStore.cold : ProfileStore :=
  { entries := (Eight.same { state := .empty, refCount := 0 }).set 0 { state := .builtIn builtInShape, refCount := 16 }
    inbox := PerPort.same none }

/-- An empty notice record (R144). -/
def NoticeRecord.empty : NoticeRecord := { pending := 0, lastDoneTag := 0, doneCount := 0 }

/-- The notice unit at cold start (R157). -/
def NoticeUnit.cold : NoticeUnit :=
  { records := PerPort.same (Eight.same NoticeRecord.empty), noticeMask := PerPort.same 0, watchMask := PerPort.same 0
    routing := Eight.same none, inbox := PerPort.same none, clearIn := false }

/-- A port unit at cold start (R175), with its SEL pin at a level. -/
def PortUnit.cold (sel : Bool) : PortUnit :=
  { sel := sel, miso := .highImpedance, frame := .idle, inByte := false, sckLow := false, bits := []
    outByte := 0, rx := [], summary := 0, waited := false, out := none, frameError := none, held := none
    inHand := none, mine := false, replyIn := none, collect := .none
    startAnswers := Eight.same none, detachAnswers := Eight.same false, clearAnswer := false, errorCounter := 0
    firstError := none, lastFrameGood := true, fresh := true, haltLevel := false, haltIn := [] }

/-- Start-up control at cold start, in a phase, with its input pins and its strap latch at levels. -/
def StartUp.cold (phase : StartPhase) (supvPin supvLatch haltPin : Bool) : StartUp :=
  { phase := phase, startLeft := 0, supvPin := supvPin, supvLatch := supvLatch, haltPin := haltPin
    haltFiltered := false, haltMeasure := 0, restartWaiting := PerPort.same false, restarter := none
    quietSeen := Eight.same false, doneSeen := false, quietSent := Eight.same false, doneSent := false
    clearAnswered := false }

/-- The machine right after reset: every block at its cold values, RST low (R180), no pin driven and no command
waiting (DESIGN CHOICE; log entries 1 and 2). -/
def State.reset : State :=
  { pending := [], start := StartUp.cold .inReset false false false, ports := PerPort.same (PortUnit.cold false)
    claim := ClaimUnit.cold, store := ProfileStore.cold, notice := NoticeUnit.cold, axes := Eight.same Axis.cold }

end Sys2Proof.Machine
end

