-- ==== Sys2Proof/Machine/Operands.lean ====
section
/-! DEFINITION. Operand forms: how the argument bytes of a request are read (10 R176 to R178, Table 10-2), the step period
of a rate (Table 3-1), and what is read from a segment or a profile. -/

namespace Sys2Proof.Machine

/-! ## Numbers, masks and nibbles -/

/-- The axis or profile entry that a byte names, if it is 00h to 07h (R176). -/
def axisOf (b : Byte) : Option (Fin 8) :=
  if h : b.toNat < 8 then some ⟨b.toNat, h⟩ else none

/-- The axis named by the low three bits of a byte, to which a read request is handed (R176). -/
def lowAxis (b : Byte) : AxisId := ⟨b.toNat % 8, Nat.mod_lt _ (by decide)⟩

/-- Whether a mask names axis `n`: bit `n`, bit 0 the least significant (R176). -/
def inMask (mask : Byte) (n : AxisId) : Bool := mask.getLsbD n.val

/-- The mask of the axes for which `f` holds (R176). -/
def maskOf (f : AxisId → Bool) : Byte :=
  (if f 0 then 0x01 else 0) ||| (if f 1 then 0x02 else 0) ||| (if f 2 then 0x04 else 0) |||
    (if f 3 then 0x08 else 0) ||| (if f 4 then 0x10 else 0) ||| (if f 5 then 0x20 else 0) |||
    (if f 6 then 0x40 else 0) ||| (if f 7 then 0x80 else 0)

/-- The mask that names axis `n` alone. -/
def oneMask (n : AxisId) : Byte := maskOf fun m => m == n

/-- The high nibble of a packed byte (R177). -/
def highNibble (b : Byte) : Nat := b.toNat / 16

/-- The low nibble of a packed byte (R177). -/
def lowNibble (b : Byte) : Nat := b.toNat % 16

/-- A nibble that must be 0h to 7h: a profile or a rate. -/
def nibble8 (k : Nat) : Option (Fin 8) := if h : k < 8 then some ⟨k, h⟩ else none

/-- A profile or rate code of QUEUE: 0h to 7h directly, Fh for the axis default (R38). -/
def codeOrDefault (dflt : Fin 8) (k : Nat) : Option (Fin 8) := if k = 15 then some dflt else nibble8 k

/-! ## Periods and profiles -/

/-- The step period of a rate code, in du (R56, Table 3-1). -/
def period (r : RateCode) : Nat :=
  match r with
  | 0 => 512
  | 1 => 384
  | 2 => 256
  | 3 => 192
  | 4 => 128
  | 5 => 96
  | 6 => 64
  | 7 => 40

/-- The forward total of a profile, in du (R85). -/
def forwardTotal (h : Shape) : Nat := h.fwdMain + 4 * h.fwdTailCount

/-- The reverse total of a profile, in du (R85). -/
def reverseTotal (h : Shape) : Nat := h.revLead + h.revMain + h.revFinal + 4 * h.revTailCount

/-- The fit check: the reverse total is no greater than the period (R92). -/
def fits (h : Shape) (r : RateCode) : Bool := decide (reverseTotal h ≤ period r)

/-- The seven fields of DEFINE_PROFILE, if each carries a value of Table 4-1 (R93, Table 10-2). -/
def shapeOf (f : ProfileArgs) : Option Shape :=
  if [6, 8, 10, 12, 14, 16, 20, 24].contains f.fwdMain.toNat && [0, 2, 4, 6, 8].contains f.fwdTailCount.toNat
      && [0, 1].contains f.fwdTailDuty.toNat && [2, 3, 4, 5].contains f.revLead.toNat
      && [6, 8, 10, 12].contains f.revMain.toNat && [10, 14].contains f.revFinal.toNat
      && [0, 4].contains f.revTailCount.toNat then
    some { fwdMain := f.fwdMain.toNat, fwdTailCount := f.fwdTailCount.toNat
           fwdTailHalf := f.fwdTailDuty.toNat == 1, revLead := f.revLead.toNat, revMain := f.revMain.toNat
           revFinal := f.revFinal.toNat, revTailCount := f.revTailCount.toNat }
  else none

/-- The contents of an entry, if it has any (R86). -/
def EntryState.shape : EntryState → Option Shape
  | .empty => none
  | .defined h => some h
  | .builtIn h => some h

/-! ## Segments -/

/-- The profile a segment names: none for a DWELL (R29). -/
def Segment.profile (g : Segment) : Option ProfileId :=
  match g.job with
  | .move _ p => some p
  | .goto _ p => some p
  | .home p => some p
  | .dwell _ => none
  | .park _ p => some p

/-- Whether a segment is a DWELL. -/
def Segment.isDwell (g : Segment) : Bool :=
  match g.job with
  | .dwell _ => true
  | _ => false

/-- Whether a segment is a HOME. -/
def Segment.isHome (g : Segment) : Bool :=
  match g.job with
  | .home _ => true
  | _ => false

/-- Whether a segment can run in reverse: a MOVE with a negative value, a GOTO, a HOME (R39); a PARK runs as a GOTO. -/
def Segment.reversible (g : Segment) : Bool :=
  match g.job with
  | .move v _ => v.msb
  | .goto _ _ => true
  | .home _ => true
  | .dwell _ => false
  | .park _ _ => true

/-- What a QUEUE's kind, value and profile code make, with the value read by the kind (R36, R178). -/
def jobOf (kind : Byte) (value : Word16) (profile : ProfileId) : Option Job :=
  match kind.toNat with
  | 1 => if value = 0 ∨ value = 0x8000 then none else some (.move value profile)
  | 2 => some (.goto value profile)
  | 3 => some (.home profile)
  | 4 => if value = 0 then none else some (.dwell value)
  | _ => none

/-- The segment that a QUEUE describes, with its profile and rate resolved from the axis's configuration; none where the
arguments describe no segment a host may queue (R36, R38). Bits 2 to 7 of the flags are disregarded (R177). -/
def segmentOf (c : AxisConfig) (q : QueueArgs) : Option Segment :=
  match codeOrDefault c.defaultProfile (highNibble q.profileRate),
      codeOrDefault c.defaultRate (lowNibble q.profileRate) with
  | some profile, some rate =>
    match jobOf q.kind q.value profile with
    | some job =>
      some { job := job, tag := q.tag, rate := rate, gated := q.flags.getLsbD 0, notify := q.flags.getLsbD 1 }
    | none => none
  | _, _ => none

/-- The PARK segment that the device makes from a configuration (R109 step 2). -/
def parkSegment (c : AxisConfig) : Segment :=
  { job := .park c.parkPosition c.parkProfile, tag := 0xFF, rate := c.parkRate, gated := false, notify := true }

/-! ## CONFIGURE -/

/-- The lapse_action of a nibble (Table 10-2). -/
def lapseOf (k : Nat) : Option LapseAction :=
  match k with
  | 0 => some .stop
  | 1 => some .park
  | 2 => some .finish
  | _ => none

/-- The low_threshold of a nibble, 0h to 3h (Table 10-2). -/
def thresholdOf (k : Nat) : Option (Fin 4) := if h : k < 4 then some ⟨k, h⟩ else none

/-- The configuration that a CONFIGURE's arguments describe, if they pass the argument checks (R18). -/
def configOf (c : ConfigureArgs) : Option AxisConfig :=
  if c.hiLimit.toNat < c.loLimit.toNat ∨ c.homeOverdrive.toNat = 0 ∨ 4095 < c.homeOverdrive.toNat then none
  else
    match nibble8 (highNibble c.defaultPair), nibble8 (lowNibble c.defaultPair),
        nibble8 (highNibble c.parkPair), nibble8 (lowNibble c.parkPair),
        lapseOf (highNibble c.behaviour), thresholdOf (lowNibble c.behaviour) with
    | some dp, some dr, some pp, some pr, some lapse, some low =>
      some { loLimit := c.loLimit, hiLimit := c.hiLimit, homePosition := c.homePosition
             homeOverdrive := c.homeOverdrive, parkPosition := c.parkPosition, defaultProfile := dp
             defaultRate := dr, parkProfile := pp, parkRate := pr, lowThreshold := low, lapseAction := lapse }
    | _, _, _, _, _, _ => none

/-- Whether a position lies within the limits of a configuration, both ends included (R2). -/
def within (c : AxisConfig) (x : Word16) : Bool :=
  decide (c.loLimit.toNat ≤ x.toNat ∧ x.toNat ≤ c.hiLimit.toNat)

/-- The position checks of CONFIGURE against the limits it carries (R19). -/
def positionsWithin (new : AxisConfig) (position : Word16) (valid : Bool) : Bool :=
  within new new.homePosition && within new new.parkPosition && (!valid || within new position)

end Sys2Proof.Machine
end

