-- ==== Sys2Proof/Machine/Flags.lean ====
section
/-! DEFINITION. Codes, flag bytes and reply layouts (10 Tables 10-2 to 10-7, R179). -/

namespace Sys2Proof.Machine

/-- A flag byte with bits 0 to 3 as given and bits 4 to 7 clear (Table 10-3). -/
def flagByte (b0 b1 b2 b3 : Bool) : Byte :=
  (if b0 then 0x01 else 0) ||| (if b1 then 0x02 else 0) ||| (if b2 then 0x04 else 0) ||| (if b3 then 0x08 else 0)

/-- The code of a reply status (Table 10-6). -/
def Status.code : Status → Byte
  | .ok => 0x00
  | .notOwner => 0x01
  | .heldElsewhere => 0x02
  | .notSupervisor => 0x03
  | .axisOff => 0x04
  | .axisFaulted => 0x05
  | .badState => 0x06
  | .badArgument => 0x07
  | .queueFull => 0x08
  | .profileEmpty => 0x09
  | .profileInUse => 0x0A
  | .profileReadOnly => 0x0B
  | .fitConflict => 0x0C
  | .outOfLimits => 0x0D

/-- The code of an axis state (Table 10-2). -/
def AxisState.code : AxisState → Byte
  | .off => 0x00
  | .idle => 0x01
  | .running => 0x02
  | .armed => 0x03
  | .held => 0x04
  | .stopping => 0x05
  | .faulted => 0x06

/-- The code of a fault_kind (Table 10-2). -/
def faultCode : Option FaultCause → Byte
  | none => 0x00
  | some .overcurrent => 0x01
  | some .noReference => 0x02

/-- The code of an owner (Table 10-2). -/
def ownerCode : Owner → Byte
  | none => 0x00
  | some .a => 0x01
  | some .b => 0x02

/-- The code of a segment kind (Table 10-2). -/
def Job.code : Job → Byte
  | .move _ _ => 0x01
  | .goto _ _ => 0x02
  | .home _ => 0x03
  | .dwell _ => 0x04
  | .park _ _ => 0x05

/-- The code of first_error (Table 10-7). -/
def firstErrorCode : Option FrameError → Byte
  | none => 0x00
  | some .unknownCode => 0x01
  | some .checkFailed => 0x02
  | some .shortFrame => 0x03
  | some .partialByte => 0x04
  | some .replyCut => 0x05
  | some .extraBytes => 0x06

/-- The bit of a notice kind in a kind set (Table 10-4). -/
def NoticeKind.bit : NoticeKind → Fin 8
  | .done => 0
  | .low => 1
  | .idle => 2
  | .limit => 3
  | .trunc => 4
  | .fault => 5
  | .lapsed => 6
  | .lost => 7

/-! ## Replies -/

/-- The reply OK with data. -/
def replyOk (data : List Byte) : Reply := { status := .ok, data := data }

/-- A refusal: its status alone (R168). -/
def refusal (st : Status) : Reply := { status := st, data := [] }

/-- The bytes returned after the ready marker: status, data, check byte (R168). -/
def Reply.bytes (r : Reply) : List Byte :=
  (r.status.code :: r.data) ++ [crc8 (r.status.code :: r.data)]

/-- The reply data of READ_AXIS (Table 10-5): the captured fields with the claim unit's owner and lease_remaining. -/
def AxisView.data (v : AxisView) (owner : Owner) (leaseRemaining : Byte) : List Byte :=
  [v.state.code, flagByte v.positionValid (v.phase == .b) v.pauseFlag false] ++ wordBytes v.position
    ++ [faultCode v.faultKind, ownerCode owner, leaseRemaining, BitVec.ofNat 8 v.waitingLength, v.activeTag]
    ++ wordBytes (BitVec.ofNat 16 v.remaining)

/-- One waiting entry of READ_QUEUE: kind, tag, segment flags (R179). -/
def Segment.entryBytes (g : Segment) : List Byte :=
  [g.job.code, g.tag, flagByte g.gated g.notify false false]

/-- The reply data of READ_QUEUE (R179). -/
def queueData (slot : Option Active) (waiting : List Segment) : List Byte :=
  (match slot with
    | some act =>
      [0x01, act.seg.job.code, act.seg.tag, flagByte act.seg.gated act.clipped false false]
        ++ wordBytes (BitVec.ofNat 16 act.remaining)
    | none => [0x00, 0x00, 0x00, 0x00, 0x00, 0x00])
    ++ [BitVec.ofNat 8 waiting.length] ++ waiting.flatMap Segment.entryBytes

/-- The reply data of CANCEL: the number removed, and whether the active slot holds the tag (R52, Table 10-3). -/
def cancelData (removed : Nat) (activeMatch : Bool) : List Byte :=
  [BitVec.ofNat 8 removed, flagByte activeMatch false false false]

/-- The seven field bytes of a profile, in the order of DEFINE_PROFILE (Table 10-5). -/
def Shape.bytes (h : Shape) : List Byte :=
  [BitVec.ofNat 8 h.fwdMain, BitVec.ofNat 8 h.fwdTailCount, if h.fwdTailHalf then 0x01 else 0x00,
    BitVec.ofNat 8 h.revLead, BitVec.ofNat 8 h.revMain, BitVec.ofNat 8 h.revFinal, BitVec.ofNat 8 h.revTailCount]

/-- The reply data of READ_PROFILE: state, the seven fields, ref_count; an EMPTY entry reads 00h throughout (R95). -/
def Entry.data (e : Entry) : List Byte :=
  match e.state with
  | .empty => [0x00, 0x00, 0x00, 0x00, 0x00, 0x00, 0x00, 0x00, 0x00]
  | .defined h => [0x01] ++ h.bytes ++ [BitVec.ofNat 8 e.refCount]
  | .builtIn h => [0x02] ++ h.bytes ++ [BitVec.ofNat 8 e.refCount]

/-- The reply data of READ_NOTICES and ACK_NOTICES (Table 10-5). -/
def NoticeRecord.data (r : NoticeRecord) : List Byte :=
  [r.pending, r.lastDoneTag, BitVec.ofNat 8 r.doneCount]

end Sys2Proof.Machine
end

