-- ==== Sys2Proof/Machine/Pulses.lean ====
section
/-! DEFINITION. Drive pulses: how a pulse is composed from a profile, which coil output it drives at each du, and how it
ends by its length or its period (3 R60 to R65, R81). -/

namespace Sys2Proof.Machine

/-- The other coil output. -/
def Coil.other : Coil → Coil
  | .a => .b
  | .b => .a

/-- The output that a forward pulse drives `t` du after it began: the main part, then the tail cycles (R61). -/
def forwardDrive (h : Shape) (mainPin : Coil) (t : Nat) : Option Coil :=
  if t < h.fwdMain then some mainPin
  else if t < forwardTotal h ∧ (t - h.fwdMain) % 4 < (if h.fwdTailHalf then 2 else 1) then some mainPin
  else none

/-- The output that a reverse pulse drives `t` du after it began: lead, main part, final part, tail cycles (R62). -/
def reverseDrive (h : Shape) (mainPin : Coil) (t : Nat) : Option Coil :=
  if t < h.revLead then some mainPin.other
  else if t < h.revLead + h.revMain then some mainPin
  else if t < h.revLead + h.revMain + h.revFinal then some mainPin.other
  else if t < reverseTotal h ∧ (t - (h.revLead + h.revMain + h.revFinal)) % 4 < 2 then some mainPin
  else none

/-- The output that a pulse drives at its elapsed time; none once elapsed reaches cut_at (R1, R61, R62). -/
def Pulse.driven (pl : Pulse) (h : Shape) : Option Coil :=
  if pl.elapsed < pl.cutAt then
    match pl.direction with
    | .forward => forwardDrive h pl.mainPin pl.elapsed
    | .reverse => reverseDrive h pl.mainPin pl.elapsed
  else none

/-- The pulse that a step begins, for a profile and a rate: a forward length beyond the period is cut there
(R60 to R62, R65). -/
def Pulse.first (h : Shape) (rate : RateCode) (dir : Direction) (mainPin : Coil) : Pulse :=
  match dir with
  | .forward =>
    { direction := .forward, mainPin := mainPin, length := forwardTotal h
      cutAt := min (forwardTotal h) (period rate), truncated := decide (period rate < forwardTotal h)
      elapsed := 0, endAction := .none }
  | .reverse =>
    { direction := .reverse, mainPin := mainPin, length := reverseTotal h, cutAt := reverseTotal h
      truncated := false, elapsed := 0, endAction := .none }

/-- The pulse with `d` du more elapsed, at most to cut_at. -/
def Pulse.advance (d : Nat) (pl : Pulse) : Pulse :=
  { pl with elapsed := min pl.cutAt (pl.elapsed + d) }

/-- The du until the pulse ends (R63). -/
def Pulse.timeLeft (pl : Pulse) : Nat := pl.cutAt - pl.elapsed

/-- The contents that an entry lends to a pulse. An entry that a segment names is never EMPTY (R86); one that is has no
parts to drive (DESIGN CHOICE, safe; log entry 14). -/
def EntryState.shapeOrNone (e : EntryState) : Shape :=
  match e.shape with
  | some h => h
  | none =>
    { fwdMain := 0, fwdTailCount := 0, fwdTailHalf := false, revLead := 0, revMain := 0, revFinal := 0
      revTailCount := 0 }

/-- The profile whose pulses a segment uses, read from the table (R60); a DWELL uses none. -/
def Segment.shapeIn (g : Segment) (table : Eight Entry) : Shape :=
  match g.profile with
  | some p => (table.get p).state.shapeOrNone
  | none => EntryState.shapeOrNone .empty

/-- The coil output that an axis drives: that of its pulse in progress, unless its driver has cut it (R61, R62, R81). -/
def Axis.driven (table : Eight Entry) (a : Axis) : Option Coil :=
  match a.pulse, a.slot, a.tripped with
  | some pl, some act, false => pl.driven (act.seg.shapeIn table)
  | _, _, _ => none

end Sys2Proof.Machine
end

