-- ==== Sys2Proof/Machine/Ops.lean ====
section
/-! DEFINITION. The named operations over the whole state: reading and replacing a block's part, sending a message from one
block to another, and the passing of time. -/

namespace Sys2Proof.Machine

/-! ## Parts of the state -/

/-- The axis controller of axis `n`. -/
def State.axis (s : State) (n : AxisId) : Axis := s.axes.get n

/-- `s` with the axis controller of axis `n` replaced. -/
def State.setAxis (s : State) (n : AxisId) (a : Axis) : State := { s with axes := s.axes.set n a }

/-- The port unit of port `p`. -/
def State.port (s : State) (p : Port) : PortUnit := s.ports.get p

/-- `s` with the port unit of port `p` replaced. -/
def State.setPort (s : State) (p : Port) (u : PortUnit) : State := { s with ports := s.ports.set p u }

/-- The profile table. -/
def State.table (s : State) : Eight Entry := s.store.entries

/-- The claim table's entry for axis `n`. -/
def State.entry (s : State) (n : AxisId) : ClaimEntry := s.claim.entries.get n

/-! ## Messages -/

/-- Sends a reply towards port `p` (R165). -/
def State.reply (s : State) (p : Port) (r : Reply) : State := s.setPort p { s.port p with replyIn := some r }

/-- Sends an axis controller one thing from the claim unit, behind all that was sent before (R125). -/
def State.sendAxis (s : State) (n : AxisId) (m : AxisMsg) : State :=
  s.setAxis n { s.axis n with fromClaim := (s.axis n).fromClaim ++ [m] }

/-- Sends the notice unit things from the claim unit, in order (R135). -/
def State.sendNotice (s : State) (ms : List NoticeMsg) : State :=
  { s with claim := { s.claim with toNotice := s.claim.toNotice ++ ms } }

/-- restart-in-progress (Table 11-1). -/
def StartPhase.restarting : StartPhase → Bool
  | .restartStopping => true
  | .restartClearing => true
  | _ => false

/-- READY (Table 11-1). -/
def StartPhase.ready : StartPhase → Bool
  | .inReset => false
  | .starting => false
  | _ => true

/-! ## Time -/

/-- `d` du pass at an axis controller: its period timer counts down and its pulse runs on, unless its driver has cut it
(R1, R57, R81). -/
def Axis.advance (d : Nat) (a : Axis) : Axis :=
  { a with
    periodLeft := a.periodLeft - d
    pulse := if a.tripped then a.pulse else a.pulse.map (Pulse.advance d) }

/-- `d` du pass for a lease (R123). -/
def ClaimEntry.advance (d : Nat) (e : ClaimEntry) : ClaimEntry := { e with leaseLeft := e.leaseLeft - d }

/-- `d` du pass at start-up control: STARTING and the HALT filter, which runs from the release of RST (R180, R186). -/
def StartUp.advance (d : Nat) (u : StartUp) : StartUp :=
  { u with
    startLeft := u.startLeft - d
    haltMeasure :=
      if u.phase = .inReset ∨ u.haltPin = u.haltFiltered then u.haltMeasure
      else min Config.haltFilterTime (u.haltMeasure + d) }

/-- `d` du pass for the whole device. -/
def State.advance (s : State) (d : Nat) : State :=
  { s with
    start := s.start.advance d
    claim := { s.claim with entries := s.claim.entries.map fun _ e => e.advance d }
    axes := s.axes.map fun _ a => a.advance d }

/-! ## Leases -/

/-- lease_remaining: the lease units that the time to the expiry still touches (R123, R136; DEDUCED, unsafe; log
entry 18). -/
def ClaimEntry.leaseRemaining (e : ClaimEntry) : Byte :=
  BitVec.ofNat 8 ((e.leaseLeft + (Config.leaseUnit - 1)) / Config.leaseUnit)

/-- The entry with its lease renewed: lease_remaining is lease_period and the measure starts afresh (R123). -/
def ClaimEntry.renewed (e : ClaimEntry) : ClaimEntry :=
  { e with leaseLeft := e.leasePeriod.toNat * Config.leaseUnit }

/-- The entry of an axis that a port owns with a lease given (R126). -/
def ClaimEntry.granted (p : Port) (lease : Byte) : ClaimEntry :=
  { owner := some p, leasePeriod := lease, leaseLeft := lease.toNat * Config.leaseUnit }

end Sys2Proof.Machine
end

