-- ==== Sys2Proof/Machine/AxisOps.lean ====
section
/-! DEFINITION. What happens inside an axis controller. An event is a list of tasks, made in order. A task that needs the
profile store holds the exchange and keeps the tasks behind it; the store's answer lets the event go on (1 R1, 4 R84).
Segments leave an axis in the step in which the store takes their give, and join it in the step in which it takes their
reference, so that ref_count counts the references at every step (R89; DESIGN CHOICE, unsafe; log entry 8). -/

namespace Sys2Proof.Machine

/-! ## Notices, holds and steps -/

/-- Posts a notice (R143). -/
def Axis.post (a : Axis) (kind : NoticeKind) (tag : Byte) : Axis := { a with posts := a.posts ++ [⟨kind, tag⟩] }

/-- Whether a hold cause is present: pause_flag set, or HALT asserted as halt_seen records it (R67). -/
def Axis.holdCause (a : Axis) : Bool := a.pauseFlag || a.haltSeen

/-- Starts the period timer with the period of a rate (R57). -/
def Axis.startTimer (a : Axis) (rate : RateCode) : Axis :=
  { a with periodLeft := period rate, periodExpired := false }

/-- Begins the next step or dwell period where R58 lets it begin: the period has expired, and the axis is RUNNING with
remaining above 0 and no pulse in progress. A step starts its pulse and flips phase (R60); a dwell period sets the dwell
mark (R66). -/
def Axis.beginStep (table : Eight Entry) (a : Axis) : Axis :=
  match a.slot with
  | some act =>
    if a.state = .running ∧ a.periodExpired = true ∧ a.pulse = none ∧ 0 < act.remaining then
      match act.seg.isDwell, act.direction with
      | false, some dir =>
        { a.startTimer act.seg.rate with
          pulse := some (Pulse.first (act.seg.shapeIn table) act.seg.rate dir a.phase)
          phase := a.phase.other }
      | true, _ => { a.startTimer act.seg.rate with dwellMark := true }
      | false, none => a
    else a
  | none => a

/-- The effect of a change of a hold cause on the axis's state (R67, R69): between pulses a RUNNING axis enters HELD when
held, and a HELD axis enters RUNNING when no cause is left, and may then begin a step at once. -/
def Axis.holdChanged (table : Eight Entry) (a : Axis) : Axis :=
  if a.holdCause then
    if a.state = .running ∧ a.pulse = none then { a with state := .held } else a
  else if a.state = .held then Axis.beginStep table { a with state := .running }
  else a

/-! ## Resolution -/

/-- A target moved into the closed range of the limits, computed without wrapping (R43, R44). -/
def clipTarget (c : AxisConfig) (target : Int) : Word16 :=
  if target < (c.loLimit.toNat : Int) then c.loLimit
  else if (c.hiLimit.toNat : Int) < target then c.hiLimit
  else BitVec.ofInt 16 target

/-- The distance between two positions, in steps. -/
def distance (x y : Word16) : Nat := ((x.toNat : Int) - (y.toNat : Int)).natAbs

/-- The direction from a position toward a target: none where they are equal (R44). -/
def toward (position target : Word16) : Option Direction :=
  if position.toNat < target.toNat then some .forward
  else if target.toNat < position.toNat then some .reverse
  else none

/-- The direction of a MOVE: the sign of its value (R43). -/
def moveDirection (value : Word16) : Direction := if value.msb then .reverse else .forward

/-- What resolution gives: direction, resolved_count, clipped (R30). -/
structure Resolved where
  direction : Option Direction
  count : Nat
  clipped : Bool
  deriving DecidableEq, Repr

/-- Resolves a segment by its kind against the position and configuration the axis holds; none for a GOTO without a known
position (R43 to R46). -/
def Axis.resolve (a : Axis) (job : Job) : Option Resolved :=
  match job with
  | .move value _ =>
    if a.positionValid then
      let target : Int := (a.position.toNat : Int) + value.toInt
      let goal := clipTarget a.config target
      some ⟨some (moveDirection value), distance goal a.position, decide ((goal.toNat : Int) ≠ target)⟩
    else some ⟨some (moveDirection value), value.toInt.natAbs, false⟩
  | .goto target _ =>
    if a.positionValid then
      let goal := clipTarget a.config (target.toNat : Int)
      some ⟨toward a.position goal, distance goal a.position, decide (goal ≠ target)⟩
    else none
  | .home _ => some ⟨some .reverse, a.config.homeOverdrive.toNat, false⟩
  | .dwell periods => some ⟨none, periods.toNat, false⟩
  | .park target _ =>
    if a.positionValid then some ⟨toward a.position target, distance target a.position, false⟩ else none

/-- The state that an activated segment with a count above 0 gives (R47). -/
def Axis.enteredState (a : Axis) (gated : Bool) : AxisState :=
  if gated then .armed else if a.holdCause then .held else .running

/-! ## The slot -/

/-- Empties the active slot: trunc_reported and the dwell mark are cleared with it (R34, R50, R66). -/
def Axis.clearSlot (a : Axis) : Axis := { a with slot := none, truncReported := false, dwellMark := false }

/-- The first step of a completion: a HOME makes the position known at home_position (R50, R105). -/
def Axis.homeReached (a : Axis) : Axis :=
  match a.slot with
  | some act =>
    if act.seg.isHome then { a with position := a.config.homePosition, positionValid := true } else a
  | none => a

/-- The third and fourth steps of a completion: DONE if notify, and the slot is emptied (R50). -/
def Axis.doneAndClear (a : Axis) : Axis :=
  match a.slot with
  | some act => (if act.seg.notify then a.post .done act.seg.tag else a).clearSlot
  | none => a

/-- What an axis controller's task gives: it is made, with what it sends; or it asks the store to give back a segment's
reference, or to take one for a PARK segment, and more tasks follow the answer. -/
inductive TaskResult where
  | made (a : Axis) (sent : List Sent)
  | gives (a : Axis) (what : Leaving) (after : List Task)
  | takes (a : Axis)

/-- Completes the active segment up to the give, and after it (R50). -/
def Axis.completeActive (a : Axis) (after : List Task) : TaskResult :=
  match a.slot with
  | some act =>
    match act.seg.profile with
    | some _ => .gives a.homeReached (.active true) after
    | none => .made a.homeReached.doneAndClear []
  | none => .made a []

/-- The axis with a segment placed in its slot as it has been resolved: a HOME makes the position unknown (R45), and a
clipped target posts LIMIT (R43, R44). -/
def Axis.placed (a : Axis) (g : Segment) (r : Resolved) : Axis :=
  let placed : Axis :=
    { a with
      slot := some ⟨g, r.direction, r.count, r.count, r.clipped⟩
      truncReported := false
      positionValid := a.positionValid && !g.isHome }
  if r.clipped then placed.post .limit 0 else placed

/-- The axis with a segment in its slot that cannot be resolved: a GOTO without a known position (R44). -/
def Axis.unplaced (a : Axis) (g : Segment) : Axis :=
  { a with slot := some ⟨g, none, 0, 0, false⟩, truncReported := false }

/-- Activates a segment into the empty slot: steps 2, 4, 5 and 6 of R42, after the LOW check. A GOTO without a known
position is discarded and faults the axis (R44); a count of 0 completes at once (R48). -/
def Axis.activate (table : Eight Entry) (a : Axis) (g : Segment) : TaskResult :=
  match a.resolve g.job with
  | none => .gives (a.unplaced g) (.active false) [.enterFaulted .noReference]
  | some r =>
    if r.count = 0 ∧ g.isDwell = false then (a.placed g r).completeActive [.next]
    else
      .made (Axis.beginStep table { a.placed g r with state := (a.placed g r).enteredState g.gated }) []

/-- Whether a segment may activate: the slot is empty, and the axis is neither OFF nor FAULTED (R41). -/
def Axis.mayActivate (a : Axis) : Bool := decide (a.slot = none ∧ a.state ≠ .off ∧ a.state ≠ .faulted)

/-- Activates the head of the waiting queue, with its LOW check (R42, R49). -/
def Axis.activateHead (table : Eight Entry) (a : Axis) : TaskResult :=
  match a.waiting, a.mayActivate with
  | g :: rest, true =>
    let moved : Axis := { a with waiting := rest }
    Axis.activate table (if rest.length = a.config.lowThreshold.val then moved.post .low 0 else moved) g
  | _, _ => .made a []

/-- Enters IDLE, with an IDLE notice or without (R12). An IDLE axis has an empty slot (R13) and no fault (R22). -/
def Axis.idleWith (a : Axis) (notice : Bool) : Axis :=
  match a.slot with
  | none =>
    let idle : Axis := { a with state := .idle, faultKind := none }
    if notice then idle.post .idle 0 else idle
  | some _ => a

/-- Enters OFF: pause_flag and the fault are cleared (R16, R17). An OFF axis has an empty slot and an empty queue (R11). -/
def Axis.offNow (a : Axis) : Axis :=
  match a.slot, a.waiting with
  | none, [] => { a with state := .off, pauseFlag := false, faultKind := none }
  | _, _ => a

/-- Enters FAULTED with its cause and posts FAULT (R22). A FAULTED axis has an empty slot (R13). -/
def Axis.faultNow (a : Axis) (cause : FaultCause) : Axis :=
  match a.slot with
  | none => ({ a with state := .faulted, faultKind := some cause } : Axis).post .fault 0
  | some _ => a

/-- Lets the pulse in progress finish in STOPPING; an end_action RESTART is kept (R76, R77). -/
def Axis.finishing (a : Axis) (why : Stopping) : Axis :=
  match a.pulse with
  | some pl =>
    { a with
      state := .stopping
      pulse := some { pl with
        endAction := if pl.endAction = .finish .restart then .finish .restart else .finish why } }
  | none => a

/-! ## Tasks -/

/-- Whether a waiting segment carries a tag and names a profile. -/
def Segment.taggedGive (tag : Byte) (g : Segment) : Bool := g.tag == tag && g.profile.isSome

/-- Makes one task of an axis controller's event. A segment is discarded or completed only with no pulse in progress
(R34). The guards here bear only on states that no run reaches (DESIGN CHOICE, safe; log entry 14); the DWELLs of a CANCEL
leave together (DESIGN CHOICE, safe; log entry 13). -/
def Axis.doTask (table : Eight Entry) (a : Axis) (t : Task) : TaskResult :=
  match t with
  | .dropWaiting =>
    match a.waiting.dropWhile Segment.isDwell with
    | [] => .made { a with waiting := [] } []
    | q => .gives { a with waiting := q } .oldest [.dropWaiting]
  | .dropActive =>
    match a.slot, a.pulse with
    | some act, none =>
      match act.seg.profile with
      | some _ => .gives a (.active false) []
      | none => .made a.clearSlot []
    | _, _ => .made a []
  | .complete =>
    match a.pulse with
    | none => a.completeActive []
    | some _ => .made a []
  | .next =>
    match a.waiting with
    | [] => .made (a.idleWith true) []
    | _ :: _ => a.activateHead table
  | .enterIdle notice => .made (a.idleWith notice) []
  | .wake => if a.state = .idle then a.activateHead table else .made a []
  | .enterFaulted cause => .made (a.faultNow cause) []
  | .park => if a.positionValid = true ∧ a.state = .idle ∧ a.slot = none then .takes a else .made a []
  | .finishPulse why => .made (a.finishing why) []
  | .clearPause => .made { a with pauseFlag := false } []
  | .enterOff => .made a.offNow []
  | .expire => .made (Axis.beginStep table { a with periodExpired := true }) []
  | .begin => .made (Axis.beginStep table a) []
  | .cancel port tag removed =>
    if a.waiting.any (Segment.taggedGive tag) then .gives a (.tagged tag) [.cancel port tag (removed + 1)]
    else
      .made { a with waiting := a.waiting.filter fun g => g.tag != tag }
        [.reply port (replyOk (cancelData (removed + a.waiting.countP fun g => g.tag == tag)
          (match a.slot with
            | some act => act.seg.tag == tag
            | none => false)))]
  | .replyLength port => .made a [.reply port (replyOk [BitVec.ofNat 8 a.waiting.length])]
  | .send x => .made a [x]

/-- Makes a list of tasks in order, up to the first that holds an exchange with the profile store; the tasks behind it
are kept with the exchange. Answers the axis and what it sends outside, in order. -/
def Axis.run (table : Eight Entry) : List Task → Axis → Axis × List Sent
  | [], a => (a, [])
  | t :: ts, a =>
    match Axis.doTask table a t with
    | .made a' sent => ((Axis.run table ts a').1, sent ++ (Axis.run table ts a').2)
    | .gives a' what after => ({ a' with busy := .give what (after ++ ts) }, [])
    | .takes a' => ({ a' with busy := .parkTake ts }, [])

/-- Goes on with an event after a part whose result is given. -/
def TaskResult.andThen (table : Eight Entry) (r : TaskResult) (ts : List Task) : Axis × List Sent :=
  match r with
  | .made a sent => ((Axis.run table ts a).1, sent ++ (Axis.run table ts a).2)
  | .gives a what after => ({ a with busy := .give what (after ++ ts) }, [])
  | .takes a => ({ a with busy := .parkTake ts }, [])

/-- The segment whose reference a give returns. -/
def Axis.leaver (a : Axis) (what : Leaving) : Option Segment :=
  match what with
  | .oldest => a.waiting.head?
  | .tagged tag => a.waiting.find? (Segment.taggedGive tag)
  | .active _ => a.slot.map Active.seg

/-- The axis once the segment whose reference has been given back has left it (R31). -/
def Axis.left (a : Axis) (what : Leaving) : Axis :=
  match what with
  | .oldest => { a with waiting := a.waiting.tail }
  | .tagged tag => { a with waiting := a.waiting.eraseP (Segment.taggedGive tag) }
  | .active true => a.doneAndClear
  | .active false => a.clearSlot

/-! ## Events -/

/-- An axis controller takes something new only when it holds no exchange and waits for no answer (R1, R26). -/
def Axis.free (a : Axis) : Bool := decide (a.busy = .none)

/-- The next thing from the claim unit that the axis controller takes, if it is free to take one (R125). -/
def Axis.offer (a : Axis) : Option AxisMsg := if a.free then a.fromClaim.head? else none

/-- Whether what the claim unit has sent is an authorised request: starts and actions are none (R125). -/
def AxisMsg.isRequest : AxisMsg → Bool
  | .request _ _ => true
  | .start _ => false
  | .lapse => false
  | .release _ _ => false
  | .seize _ => false
  | .detach _ => false

/-- Whether a request of a host has been handed to the axis controller and not yet taken: an authorised one or a read
(R1, R27). -/
def Axis.requestWaits (a : Axis) : Bool :=
  a.fromClaim.any AxisMsg.isRequest || (a.reads.get .a).isSome || (a.reads.get .b).isSome

/-- The axis with the next thing from the claim unit taken. -/
def Axis.taken (a : Axis) : Axis := { a with fromClaim := a.fromClaim.tail }

/-- The tasks of a STOP or of a STOP-type action, by the axis's state (R76, R77, R23). -/
def Axis.stopTasks (a : Axis) : List Task :=
  match a.state with
  | .off => []
  | .idle => []
  | .faulted => [.dropWaiting]
  | .stopping => [.dropWaiting, .finishPulse .stop]
  | .running =>
    if a.pulse = none then [.dropWaiting, .dropActive, .enterIdle true] else [.dropWaiting, .finishPulse .stop]
  | .held => [.dropWaiting, .dropActive, .enterIdle true]
  | .armed => [.dropWaiting, .dropActive, .enterIdle true]

/-- The tasks of a PARK-type action, by the axis's state (R77, R108, R23). -/
def Axis.parkTasks (a : Axis) : List Task :=
  match a.state with
  | .off => []
  | .idle => [.park]
  | .faulted => [.dropWaiting]
  | .stopping => [.dropWaiting, .finishPulse .park]
  | .running =>
    if a.pulse = none then [.dropWaiting, .dropActive, .enterIdle true, .park]
    else [.dropWaiting, .finishPulse .park]
  | .held => [.dropWaiting, .dropActive, .enterIdle true, .park]
  | .armed => [.dropWaiting, .dropActive, .enterIdle true, .park]

/-- The tasks of a lapse or of a detach, by lapse_action as the record holds it (R5, R77). -/
def Axis.lapseTasks (a : Axis) : List Task :=
  match a.config.lapseAction with
  | .stop => a.stopTasks
  | .park => a.parkTasks
  | .finish => []

/-- The tasks of the restart step, by the axis's state (R27). -/
def Axis.restartTasks (a : Axis) : List Task :=
  match a.state with
  | .off => [.send .quiet]
  | .idle => [.clearPause, .send .quiet]
  | .faulted => [.dropWaiting, .clearPause, .enterIdle false, .send .quiet]
  | .stopping => [.dropWaiting, .clearPause, .finishPulse .restart]
  | .running =>
    if a.pulse = none then [.dropWaiting, .dropActive, .clearPause, .enterIdle false, .send .quiet]
    else [.dropWaiting, .clearPause, .finishPulse .restart]
  | .held => [.dropWaiting, .dropActive, .clearPause, .enterIdle false, .send .quiet]
  | .armed => [.dropWaiting, .dropActive, .clearPause, .enterIdle false, .send .quiet]

/-! ## Pulse ends and expiries -/

/-- The position after a step that counts (R63 step 2): it moves by one if it is known and the segment is no HOME. -/
def Axis.stepped (a : Axis) (dir : Direction) (g : Segment) : Word16 :=
  if a.positionValid = true ∧ g.isHome = false then
    match dir with
    | .forward => a.position + 1
    | .reverse => a.position - 1
  else a.position

/-- Steps 1 to 3 of a pulse end: the pulse's record is removed, the step counts, and the first truncated pulse of the
segment posts TRUNC (R63), at the end of a pulse that a restart waits for as well (R79; DEDUCED, unsafe: R27 has the restart
step post no notices; log entry 19). -/
def Axis.stepCounts (a : Axis) (pl : Pulse) : Axis :=
  match a.slot with
  | some act =>
    let counted : Axis :=
      { a with
        pulse := none
        slot := some { act with remaining := act.remaining - 1 }
        position := a.stepped pl.direction act.seg }
    if pl.truncated = true ∧ a.truncReported = false then { counted.post .trunc 0 with truncReported := true }
    else counted
  | none => { a with pulse := none }

/-- remaining of the active segment; 0 with the slot empty. -/
def Axis.remaining (a : Axis) : Nat :=
  match a.slot with
  | some act => act.remaining
  | none => 0

/-- Steps 4 and 5 of a pulse end, for the axis after its step has counted: what the end action does to the segment
(R63, R79, R110). A hold bears on an axis whose segment goes on. -/
def Axis.afterPulse (a : Axis) (action : EndAction) : Axis × List Task :=
  match action with
  | .none =>
    if a.remaining = 0 then (a, [.complete, .next])
    else if a.holdCause then ({ a with state := .held }, [])
    else (a, [])
  | .skip => if a.remaining = 0 then (a, [.complete, .next]) else (a, [.dropActive, .next])
  | .finish .stop =>
    if a.remaining = 0 then (a, [.complete, .next]) else (a, [.dropActive, .enterIdle true, .wake])
  | .finish .park =>
    (a, [if a.remaining = 0 then .complete else .dropActive, .dropWaiting, .enterIdle true, .park])
  | .finish .restart => (a, [.dropActive, .enterIdle false, .send .quiet, .wake])

/-- Whether a pulse's end falls at the expiry of its own period: its cut is at the period of its segment's rate, and the
timer started with it has not been taken (R64). -/
def Axis.endsWithPeriod (a : Axis) (pl : Pulse) : Bool :=
  match a.slot with
  | some act => decide (pl.cutAt = period act.seg.rate ∧ a.periodExpired = false ∧ a.periodLeft ≤ pl.timeLeft)
  | none => false

/-- A pulse end as one event: the step counts, the segment goes on or ends, and a period that expires with the pulse is
taken after it (R63, R64, R79). -/
def Axis.pulseEnd (table : Eight Entry) (a : Axis) (pl : Pulse) (withExpiry : Bool) : Axis × List Sent :=
  let after := (a.stepCounts pl).afterPulse pl.endAction
  Axis.run table (after.2 ++ [if withExpiry then .expire else .begin]) after.1

/-- A period expiry with no pulse ending in it (R59): period_expired becomes yes, a dwell period counts, which may
complete the DWELL, and a step or dwell period begins where R58 lets it (R66). -/
def Axis.periodEnd (table : Eight Entry) (a : Axis) : Axis × List Sent :=
  match a.dwellMark, a.slot with
  | true, some act =>
    let counted : Axis :=
      { a with
        periodExpired := true
        periodLeft := 0
        dwellMark := false
        slot := some { act with remaining := act.remaining - 1 } }
    if act.remaining ≤ 1 then Axis.run table [.complete, .next, .begin] counted
    else Axis.run table [.begin] counted
  | _, _ => Axis.run table [.begin] { a with periodExpired := true, periodLeft := 0 }

/-- The taking of a detected overcurrent (R81, R82, R28): the pulse is cut and does not count, the position is lost, the
active segment is discarded, and the axis is FAULTED, or IDLE without notice where its restart waited for this pulse.
The active segment goes before the queue (DESIGN CHOICE, unsafe; log entry 10), and quiet is reported before the next head
activates (DEDUCED, unsafe; log entry 16). -/
def Axis.overcurrent (table : Eight Entry) (a : Axis) (pl : Pulse) : Axis × List Sent :=
  let cut : Axis := { a with pulse := none, tripped := false, positionValid := false }
  match pl.endAction with
  | .finish .restart => Axis.run table [.dropActive, .enterIdle false, .send .quiet, .wake] cut
  | _ =>
    if a.state = .stopping then
      Axis.run table [.dropActive, .dropWaiting, .enterFaulted .overcurrent] cut
    else Axis.run table [.dropActive, .enterFaulted .overcurrent] cut

/-! ## Over the whole state -/

/-- Delivers one thing that an axis controller sends outside. -/
def State.deliver (s : State) (n : AxisId) (x : Sent) : State :=
  match x with
  | .reply p r => s.reply p r
  | .answerStart p started =>
    s.setPort p { s.port p with startAnswers := (s.port p).startAnswers.set n (some started) }
  | .answerDetach p =>
    s.setPort p { s.port p with detachAnswers := (s.port p).detachAnswers.set n true }
  | .quiet => { s with start := { s.start with quietSent := s.start.quietSent.set n true } }

/-- Puts back an axis controller after an event, and delivers what it sent, in order. -/
def State.finish (s : State) (n : AxisId) (r : Axis × List Sent) : State :=
  r.2.foldl (fun s x => s.deliver n x) (s.setAxis n r.1)

/-- An axis controller's event: the axis as the event's own changes leave it, then the tasks. -/
def State.runAxis (s : State) (n : AxisId) (a : Axis) (ts : List Task) : State :=
  s.finish n (Axis.run s.table ts a)

end Sys2Proof.Machine
end

