-- ==== Sys2Proof/Machine/AxisRequests.lean ====
section
/-! DEFINITION. The meanings of what an axis controller takes from the claim unit and from the ports: requests, starts,
actions and reads (1 R14 to R28, 2 R35 to R55, 3 R67 to R77, 5 R101, R107 to R109, 6 R117, 7 R127 to R132). -/

namespace Sys2Proof.Machine

/-- The axis controller of `n` answers a request it has taken and changes nothing else. -/
def State.axisAnswers (s : State) (n : AxisId) (p : Port) (r : Reply) : State :=
  s.runAxis n (s.axis n).taken [.send (.reply p r)]

/-! ## Chapter 1 -/

/-- ENABLE: an OFF axis enters IDLE (R15). -/
def execEnable (n : AxisId) (s : State) : Host.Outcome State Fault Refusal :=
  .next <|
    match (s.axis n).offer with
    | some (.request p .enable) =>
      match (s.axis n).state with
      | .off => s.runAxis n { (s.axis n).taken with state := .idle } [.send (.reply p (replyOk []))]
      | _ => s.axisAnswers n p (refusal .badState)
    | _ => s

/-- DISABLE: an IDLE axis enters OFF (R16), and a FAULTED one after its queue is discarded (R17). -/
def execDisable (n : AxisId) (s : State) : Host.Outcome State Fault Refusal :=
  .next <|
    match (s.axis n).offer with
    | some (.request p .disable) =>
      match (s.axis n).state with
      | .off => s.axisAnswers n p (refusal .axisOff)
      | .idle => s.runAxis n (s.axis n).taken [.enterOff, .send (.reply p (replyOk []))]
      | .faulted =>
        s.runAxis n (s.axis n).taken
          [.dropWaiting, .enterOff, .send (.reply p (replyOk []))]
      | _ => s.axisAnswers n p (refusal .badState)
    | _ => s

/-- CONFIGURE: state, arguments, positions; then the exchange with the profile store (R18 to R20). -/
def execConfigure (n : AxisId) (s : State) : Host.Outcome State Fault Refusal :=
  .next <|
    match (s.axis n).offer with
    | some (.request p (.configure args)) =>
      if (s.axis n).state = .off ∨ (s.axis n).state = .idle then
        match configOf args with
        | none => s.axisAnswers n p (refusal .badArgument)
        | some c =>
          if positionsWithin c (s.axis n).position (s.axis n).positionValid then
            s.setAxis n { (s.axis n).taken with busy := .configure p c }
          else s.axisAnswers n p (refusal .outOfLimits)
      else s.axisAnswers n p (refusal .badState)
    | _ => s

/-- SET_POSITION (R101). -/
def execSetPosition (n : AxisId) (s : State) : Host.Outcome State Fault Refusal :=
  .next <|
    match (s.axis n).offer with
    | some (.request p (.setPosition value)) =>
      if (s.axis n).state = .off ∨ (s.axis n).state = .idle then
        if within (s.axis n).config value then
          s.runAxis n { (s.axis n).taken with position := value, positionValid := true }
            [.send (.reply p (replyOk []))]
        else s.axisAnswers n p (refusal .outOfLimits)
      else s.axisAnswers n p (refusal .badState)
    | _ => s

/-- CLEAR_FAULT: the axis enters IDLE, and its waiting head activates in the same event (R24). -/
def execClearFault (n : AxisId) (s : State) : Host.Outcome State Fault Refusal :=
  .next <|
    match (s.axis n).offer with
    | some (.request p .clearFault) =>
      match (s.axis n).state with
      | .off => s.axisAnswers n p (refusal .axisOff)
      | .faulted =>
        s.runAxis n (s.axis n).taken [.enterIdle true, .wake, .send (.reply p (replyOk []))]
      | _ => s.axisAnswers n p (refusal .badState)
    | _ => s

/-! ## Chapter 2 -/

/-- QUEUE: state, arguments, room; then the admission take, which a DWELL does not make (R35 to R40). -/
def execQueue (n : AxisId) (s : State) : Host.Outcome State Fault Refusal :=
  .next <|
    match (s.axis n).offer with
    | some (.request p (.queue q)) =>
      match (s.axis n).state with
      | .off => s.axisAnswers n p (refusal .axisOff)
      | .faulted => s.axisAnswers n p (refusal .axisFaulted)
      | _ =>
        match segmentOf (s.axis n).config q with
        | none => s.axisAnswers n p (refusal .badArgument)
        | some g =>
          if Config.queueDepth ≤ (s.axis n).waiting.length then s.axisAnswers n p (refusal .queueFull)
          else if g.isDwell then
            s.runAxis n { (s.axis n).taken with waiting := (s.axis n).waiting ++ [g] } [.wake, .replyLength p]
          else s.setAxis n { (s.axis n).taken with busy := .admission p g }
    | _ => s

/-- CANCEL (R52). -/
def execCancel (n : AxisId) (s : State) : Host.Outcome State Fault Refusal :=
  .next <|
    match (s.axis n).offer with
    | some (.request p (.cancel tag)) => s.runAxis n (s.axis n).taken [.cancel p tag 0]
    | _ => s

/-- READ_QUEUE of port `p` (R54); an axis byte of 08h or above is refused (R176). -/
def execReadQueue (n : AxisId) (p : Port) (s : State) : Host.Outcome State Fault Refusal :=
  .next <|
    match (s.axis n).free, (s.axis n).reads.get p with
    | true, some ⟨true, inRange⟩ =>
      s.runAxis n { s.axis n with reads := (s.axis n).reads.set p none }
        [.send (.reply p
          (if inRange then replyOk (queueData (s.axis n).slot (s.axis n).waiting) else refusal .badArgument))]
    | _, _ => s

/-! ## READ_AXIS -/

/-- The fields that READ_AXIS captures (R25). -/
def Axis.view (a : Axis) : AxisView :=
  { state := a.state, position := a.position, positionValid := a.positionValid, phase := a.phase
    pauseFlag := a.pauseFlag, faultKind := a.faultKind, waitingLength := a.waiting.length
    activeTag := match a.slot with
      | some act => act.seg.tag
      | none => 0
    remaining := a.remaining }

/-- READ_AXIS of port `p`: the controller captures its fields and asks the claim unit (R25, R26); an axis byte of 08h or
above is refused (R176). -/
def execReadAxis (n : AxisId) (p : Port) (s : State) : Host.Outcome State Fault Refusal :=
  .next <|
    match (s.axis n).free, (s.axis n).reads.get p with
    | true, some ⟨false, true⟩ =>
      s.setAxis n
        { s.axis n with
          reads := (s.axis n).reads.set p none
          busy := .claimAsk p (s.axis n).view none }
    | true, some ⟨false, false⟩ =>
      s.runAxis n { s.axis n with reads := (s.axis n).reads.set p none }
        [.send (.reply p (refusal .badArgument))]
    | _, _ => s

/-- CLAIM_ANSWER: the controller takes the claim unit's answer and completes the reply (R26). -/
def execClaimAnswer (n : AxisId) (s : State) : Host.Outcome State Fault Refusal :=
  .next <|
    match (s.axis n).busy with
    | .claimAsk p view (some (owner, leaseRemaining)) =>
      s.runAxis n { s.axis n with busy := .none }
        [.send (.reply p (replyOk (view.data owner leaseRemaining)))]
    | _ => s

/-! ## Chapter 3 -/

/-- PAUSE (R70). -/
def execPause (n : AxisId) (s : State) : Host.Outcome State Fault Refusal :=
  .next <|
    match (s.axis n).offer with
    | some (.request p .pause) =>
      match (s.axis n).state with
      | .off => s.axisAnswers n p (refusal .axisOff)
      | _ =>
        s.runAxis n (Axis.holdChanged s.table { (s.axis n).taken with pauseFlag := true })
          [.send (.reply p (replyOk []))]
    | _ => s

/-- RESUME (R71). -/
def execResume (n : AxisId) (s : State) : Host.Outcome State Fault Refusal :=
  .next <|
    match (s.axis n).offer with
    | some (.request p .resume) =>
      match (s.axis n).state with
      | .off => s.axisAnswers n p (refusal .axisOff)
      | _ =>
        s.runAxis n (Axis.holdChanged s.table { (s.axis n).taken with pauseFlag := false })
          [.send (.reply p (replyOk []))]
    | _ => s

/-- SKIP with no pulse in progress discards the active segment at once (R74). -/
def State.skipNow (s : State) (n : AxisId) (p : Port) : State :=
  s.runAxis n (s.axis n).taken [.dropActive, .next, .send (.reply p (replyOk []))]

/-- SKIP (R73, R75). -/
def execSkip (n : AxisId) (s : State) : Host.Outcome State Fault Refusal :=
  .next <|
    match (s.axis n).offer with
    | some (.request p .skip) =>
      match (s.axis n).state with
      | .off => s.axisAnswers n p (refusal .axisOff)
      | .idle => s.axisAnswers n p (refusal .badState)
      | .faulted => s.axisAnswers n p (refusal .badState)
      | .stopping => s.axisAnswers n p (refusal .badState)
      | .running =>
        match (s.axis n).pulse with
        | none => s.skipNow n p
        | some pl =>
          match pl.endAction with
          | .none =>
            s.runAxis n { (s.axis n).taken with pulse := some { pl with endAction := .skip } }
              [.send (.reply p (replyOk []))]
          | _ => s.axisAnswers n p (refusal .badState)
      | .held => s.skipNow n p
      | .armed => s.skipNow n p
    | _ => s

/-- STOP (R76, R23). -/
def execStop (n : AxisId) (s : State) : Host.Outcome State Fault Refusal :=
  .next <|
    match (s.axis n).offer with
    | some (.request p .stop) =>
      s.runAxis n (s.axis n).taken ((s.axis n).stopTasks ++ [.send (.reply p (replyOk []))])
    | _ => s

/-- AXIS_HALT_CHANGE: the controller takes the oldest change of the filtered HALT level and records it in halt_seen
(R67, R69). -/
def execAxisHaltChange (n : AxisId) (s : State) : Host.Outcome State Fault Refusal :=
  .next <|
    match (s.axis n).free, (s.axis n).haltIn with
    | true, level :: rest =>
      s.setAxis n (Axis.holdChanged s.table { s.axis n with haltSeen := level, haltIn := rest })
    | _, _ => s

/-! ## Starts and actions of the claim unit -/

/-- START: an ARMED axis enters RUNNING or HELD and answers started; any other answers not started (R117). -/
def execStart (n : AxisId) (s : State) : Host.Outcome State Fault Refusal :=
  .next <|
    match (s.axis n).offer with
    | some (.start p) =>
      match (s.axis n).state with
      | .armed =>
        s.runAxis n
          (Axis.beginStep s.table
            { (s.axis n).taken with state := if (s.axis n).holdCause then .held else .running })
          [.send (.answerStart p true)]
      | _ => s.runAxis n (s.axis n).taken [.send (.answerStart p false)]
    | _ => s

/-- RELEASE_ACTION: a STOP-type or PARK-type action, then the reply to the RELEASE (R127). -/
def execReleaseAction (n : AxisId) (s : State) : Host.Outcome State Fault Refusal :=
  .next <|
    match (s.axis n).offer with
    | some (.release p park) =>
      s.runAxis n (s.axis n).taken
        ((if park then (s.axis n).parkTasks else (s.axis n).stopTasks) ++ [.send (.reply p (replyOk []))])
    | _ => s

/-- SEIZE_ACTION: a STOP-type action, then the reply to the SEIZE, which names the former owner (R129, R130; DEDUCED,
unsafe; log entry 17). -/
def execSeizeAction (n : AxisId) (s : State) : Host.Outcome State Fault Refusal :=
  .next <|
    match (s.axis n).offer with
    | some (.seize p) =>
      s.runAxis n (s.axis n).taken
        ((s.axis n).stopTasks ++ [.send (.reply p (replyOk [ownerCode (some p.other)]))])
    | _ => s

/-- DETACH_ACTION: the axis's lapse_action, then the answer to the port unit (R131). -/
def execDetachAction (n : AxisId) (s : State) : Host.Outcome State Fault Refusal :=
  .next <|
    match (s.axis n).offer with
    | some (.detach p) =>
      s.runAxis n (s.axis n).taken ((s.axis n).lapseTasks ++ [.send (.answerDetach p)])
    | _ => s

/-- LAPSE_ACTION: the axis's lapse_action (R132). -/
def execLapseAction (n : AxisId) (s : State) : Host.Outcome State Fault Refusal :=
  .next <|
    match (s.axis n).offer with
    | some .lapse => s.runAxis n (s.axis n).taken (s.axis n).lapseTasks
    | _ => s

/-! ## The restart step -/

/-- AXIS_RESTART_STEP: a request handed to the controller before it takes the step is taken before it, so that the step waits
for the requests that wait (R27); starts and actions may come before it or after it (DEDUCED, unsafe; log entry 20). -/
def execAxisRestartStep (n : AxisId) (s : State) : Host.Outcome State Fault Refusal :=
  .next <|
    if (s.axis n).free && (s.axis n).restartIn && !(s.axis n).requestWaits then
      s.runAxis n { s.axis n with restartIn := false } (s.axis n).restartTasks
    else s

end Sys2Proof.Machine
end

