-- ==== Sys2Proof/Machine/PortOps.lean ====
section
/-! DEFINITION. What a port unit does besides shifting bytes: counting a frame error, handing a request on, taking a reply,
and taking its own requests (9 R161 to R174). -/

namespace Sys2Proof.Machine

/-- Counts a frame error where it is the frame's first (R170, R171). -/
def PortUnit.countError (u : PortUnit) (e : FrameError) : PortUnit :=
  match u.frameError with
  | some _ => u
  | none =>
    { u with
      frameError := some e
      firstError := if u.errorCounter = 0 then some e else u.firstError
      errorCounter := min Config.errorCounterMax (u.errorCounter + 1) }

/-- Whether a port is the supervisor port: Port B, with the strap latch high (R134, R182). -/
def State.isSupervisor (s : State) (p : Port) : Bool := p == .b && s.start.supvLatch

/-- The port status byte as it stands (R161, Table 10-3). -/
def State.statusByte (s : State) (p : Port) : Byte :=
  flagByte (decide (0 < (s.port p).errorCounter)) (s.isSupervisor p) (s.port p).haltLevel (s.port p).fresh

/-- Passes a request to the block that takes it first (Table 7-2). A port unit's own requests stay with it, and a read
of an axis goes to the axis that the low three bits name (R176). -/
def State.route (s : State) (p : Port) (r : Request) : State :=
  match r with
  | .readDevice => s
  | .readPortStatus => s
  | .clearPortErrors => s
  | .restart => { s with start := { s.start with restartWaiting := s.start.restartWaiting.set p true } }
  | .claim _ _ => { s with claim := { s.claim with inbox := s.claim.inbox.set p (some r) } }
  | .release _ _ => { s with claim := { s.claim with inbox := s.claim.inbox.set p (some r) } }
  | .keep _ => { s with claim := { s.claim with inbox := s.claim.inbox.set p (some r) } }
  | .seize _ _ _ => { s with claim := { s.claim with inbox := s.claim.inbox.set p (some r) } }
  | .detach => { s with claim := { s.claim with inbox := s.claim.inbox.set p (some r) } }
  | .mutate _ _ => { s with claim := { s.claim with inbox := s.claim.inbox.set p (some r) } }
  | .go _ => { s with claim := { s.claim with inbox := s.claim.inbox.set p (some r) } }
  | .readAxis axis =>
    s.setAxis (lowAxis axis)
      { s.axis (lowAxis axis) with
        reads := (s.axis (lowAxis axis)).reads.set p (some ⟨false, (axisOf axis).isSome⟩) }
  | .readQueue axis =>
    s.setAxis (lowAxis axis)
      { s.axis (lowAxis axis) with
        reads := (s.axis (lowAxis axis)).reads.set p (some ⟨true, (axisOf axis).isSome⟩) }
  | .defineProfile _ _ => { s with store := { s.store with inbox := s.store.inbox.set p (some r) } }
  | .deleteProfile _ => { s with store := { s.store with inbox := s.store.inbox.set p (some r) } }
  | .readProfile _ => { s with store := { s.store with inbox := s.store.inbox.set p (some r) } }
  | .readNotices _ => { s with notice := { s.notice with inbox := s.notice.inbox.set p (some r) } }
  | .ackNotices _ _ => { s with notice := { s.notice with inbox := s.notice.inbox.set p (some r) } }
  | .setNoticeMask _ => { s with notice := { s.notice with inbox := s.notice.inbox.set p (some r) } }
  | .setWatch _ => { s with notice := { s.notice with inbox := s.notice.inbox.set p (some r) } }

/-- Hands a request on: it becomes the port's request in hand (R165). -/
def State.handOn (s : State) (p : Port) (r : Request) : State :=
  (s.setPort p { s.port p with held := none, inHand := some r, mine := true }).route p r

/-- Hands on the request that a port holds, unless a previous request is in hand or a restart is in progress (R166). -/
def State.handHeld (s : State) (p : Port) : State :=
  match (s.port p).held with
  | some r =>
    if (s.port p).inHand = none ∧ s.start.phase.restarting = false then s.handOn p r else s
  | none => s

/-- A reply reaches the port: it ends the request in hand, is kept for the frame of its request or discarded if that frame
has ended (R169), and lets a held request be handed on (R166). -/
def State.arrive (s : State) (p : Port) (r : Reply) : State :=
  (s.setPort p
    { s.port p with
      inHand := none
      mine := false
      out := if (s.port p).mine then some r.bytes else (s.port p).out }).handHeld p

/-- The port unit takes its READ_DEVICE (R187). -/
def State.takeReadDevice (s : State) (p : Port) : State :=
  s.arrive p (replyOk (Config.identity ++ [flagByte s.start.supvLatch (s.port p).haltLevel false false]))

/-- The port unit takes its READ_PORT_STATUS: capture, then FRESH is cleared (R173). -/
def State.takeReadPortStatus (s : State) (p : Port) : State :=
  (s.setPort p { s.port p with fresh := false }).arrive p
    (replyOk [BitVec.ofNat 8 (s.port p).errorCounter, firstErrorCode (s.port p).firstError])

/-- The port unit takes its CLEAR_PORT_ERRORS (R174). -/
def State.takeClearPortErrors (s : State) (p : Port) : State :=
  (s.setPort p { s.port p with errorCounter := 0, firstError := none }).arrive p (replyOk [])

/-- A port unit takes its own request at hand-off (R165): where the request in hand is one of the three, every other event
of the port unit finds it taken (DEDUCED, safe; log entry 7). -/
def State.settle (s : State) (p : Port) : State :=
  match (s.port p).inHand with
  | some .readDevice => s.takeReadDevice p
  | some .readPortStatus => s.takeReadPortStatus p
  | some .clearPortErrors => s.takeClearPortErrors p
  | _ => s

/-- The reply of a GO or DETACH that the port unit builds is ready when no answer is awaited (R118, R131; DEDUCED,
safe; log entry 11). -/
def State.collected (s : State) (p : Port) : State :=
  match (s.port p).collect with
  | .none => s
  | .go named started awaited =>
    if awaited = 0 then
      (s.setPort p { s.port p with collect := .none }).arrive p (replyOk [started, named &&& ~~~started])
    else s
  | .detach mask awaited clearAwaited =>
    if awaited = 0 ∧ clearAwaited = false then
      (s.setPort p { s.port p with collect := .none }).arrive p (replyOk [mask])
    else s

end Sys2Proof.Machine
end

