-- ==== Sys2Proof/Machine/Claims.lean ====
section
/-! DEFINITION. The claim unit: the claim table, authorisation, and the meanings of its commands (6 R116, 7 R122 to
R141). -/

namespace Sys2Proof.Machine

/-! ## Shared parts -/

/-- `s` with a claim entry replaced. -/
def State.setEntry (s : State) (n : AxisId) (e : ClaimEntry) : State :=
  { s with claim := { s.claim with entries := s.claim.entries.set n e } }

/-- The request of port `p` that the claim unit has taken leaves its inbox. -/
def State.claimTaken (s : State) (p : Port) : State :=
  { s with claim := { s.claim with inbox := s.claim.inbox.set p none } }

/-- Whether port `p` owns axis `n` by the claim table. -/
def State.owns (s : State) (p : Port) (n : AxisId) : Bool := (s.entry n).owner == some p

/-- The lease of axis `n` is renewed (R123). -/
def State.renew (s : State) (n : AxisId) : State := s.setEntry n (s.entry n).renewed

/-- Axis `n` becomes the port's with a lease given, and the owner change is reported (R126, R135). -/
def State.grant (s : State) (p : Port) (n : AxisId) (lease : Byte) : State :=
  (s.setEntry n (ClaimEntry.granted p lease)).sendNotice [.report n (some p) false]

/-- The claim on axis `n` ends: owner NONE, no lease, and the owner change is reported (R122, R135). -/
def State.endClaim (s : State) (n : AxisId) : State :=
  (s.setEntry n ClaimEntry.free).sendNotice [.report n none false]

/-- The leases of the axes that `f` picks are renewed (R116, R128). -/
def State.renewAll (s : State) (f : AxisId → Bool) : State :=
  { s with claim := { s.claim with entries := s.claim.entries.map fun n e => if f n then e.renewed else e } }

/-- The claims on the axes that `f` picks end, and each owner change is reported, in the order of the axes; `answered` is
yes for the reports of a restart step (R131, R141). -/
def State.endClaims (s : State) (f : AxisId → Bool) (answered : Bool) : State :=
  ({ s with
    claim := { s.claim with entries := s.claim.entries.map fun n e => if f n then ClaimEntry.free else e } } :
    State).sendNotice ((allEight.filter f).map fun n => .report n none answered)

/-- The axes that `f` picks are each sent one thing (R116, R131). -/
def State.sendAxes (s : State) (f : AxisId → Bool) (m : AxisMsg) : State :=
  { s with axes := s.axes.map fun n a => if f n then { a with fromClaim := a.fromClaim ++ [m] } else a }

/-! ## Requests -/

/-- AUTHORISATION of one of the eleven requests: axis number, owner, then renewal, and the request is passed to the axis
controller (R124, R125). -/
def execAuthorisation (p : Port) (s : State) : Host.Outcome State Fault Refusal :=
  .next <|
    match s.claim.inbox.get p with
    | some (.mutate axis m) =>
      match axisOf axis with
      | none => (s.claimTaken p).reply p (refusal .badArgument)
      | some n =>
        if s.owns p n then ((s.claimTaken p).renew n).sendAxis n (.request p m)
        else (s.claimTaken p).reply p (refusal .notOwner)
    | _ => s

/-- CLAIM (R126). -/
def execClaim (p : Port) (s : State) : Host.Outcome State Fault Refusal :=
  .next <|
    match s.claim.inbox.get p with
    | some (.claim axis lease) =>
      match axisOf axis with
      | none => (s.claimTaken p).reply p (refusal .badArgument)
      | some n =>
        match (s.entry n).owner with
        | none => ((s.claimTaken p).grant p n lease).reply p (replyOk [])
        | some q =>
          if q = p then ((s.claimTaken p).setEntry n (ClaimEntry.granted p lease)).reply p (replyOk [])
          else (s.claimTaken p).reply p (refusal .heldElsewhere)
    | _ => s

/-- The RELEASE action of a code (Table 10-2): none for KEEP_MOTION, else whether the axis parks. -/
def releaseActionOf (code : Byte) : Option (Option Bool) :=
  match code.toNat with
  | 0 => some none
  | 1 => some (some false)
  | 2 => some (some true)
  | _ => none

/-- RELEASE: with STOP or PARK the reply waits for the axis controller (R127). -/
def execRelease (p : Port) (s : State) : Host.Outcome State Fault Refusal :=
  .next <|
    match s.claim.inbox.get p with
    | some (.release axis action) =>
      match axisOf axis, releaseActionOf action with
      | some n, some act =>
        if s.owns p n then
          match act with
          | none => ((s.claimTaken p).endClaim n).reply p (replyOk [])
          | some park => ((s.claimTaken p).endClaim n).sendAxis n (.release p park)
        else (s.claimTaken p).reply p (refusal .notOwner)
      | _, _ => (s.claimTaken p).reply p (refusal .badArgument)
    | _ => s

/-- KEEP: the leases of the named axes that the requester owns are renewed (R128). -/
def execKeep (p : Port) (s : State) : Host.Outcome State Fault Refusal :=
  .next <|
    match s.claim.inbox.get p with
    | some (.keep mask) =>
      ((s.claimTaken p).renewAll fun n => inMask mask n && s.owns p n).reply p
        (replyOk [maskOf fun n => inMask mask n && s.owns p n])
    | _ => s

/-- The keep_motion code (Table 10-2). -/
def keepMotionOf (code : Byte) : Option Bool :=
  match code.toNat with
  | 0 => some false
  | 1 => some true
  | _ => none

/-- SEIZE: a transfer without keep_motion waits for the axis controller (R129, R130). -/
def execSeize (p : Port) (s : State) : Host.Outcome State Fault Refusal :=
  .next <|
    match s.claim.inbox.get p with
    | some (.seize axis lease keepMotion) =>
      match axisOf axis, keepMotionOf keepMotion with
      | some n, some keep =>
        if s.isSupervisor p then
          match (s.entry n).owner with
          | none => ((s.claimTaken p).grant p n lease).reply p (replyOk [ownerCode none])
          | some q =>
            if q = p then
              ((s.claimTaken p).setEntry n (ClaimEntry.granted p lease)).reply p (replyOk [ownerCode (some p)])
            else if keep then
              (((s.claimTaken p).grant p n lease).sendNotice [.posting .lost n q]).reply p
                (replyOk [ownerCode (some q)])
            else (((s.claimTaken p).grant p n lease).sendNotice [.posting .lost n q]).sendAxis n (.seize p)
        else (s.claimTaken p).reply p (refusal .notSupervisor)
      | _, _ => (s.claimTaken p).reply p (refusal .badArgument)
    | _ => s

/-- DETACH: every claim of the requester ends, each with a detach action, and a clear goes to the notice unit. The port
unit is handed detached_mask and gathers the answers (R131). -/
def execDetach (p : Port) (s : State) : Host.Outcome State Fault Refusal :=
  .next <|
    match s.claim.inbox.get p with
    | some .detach =>
      let mask := maskOf (s.owns p)
      let t := (((s.claimTaken p).endClaims (s.owns p) false).sendNotice [.clear p]).sendAxes (s.owns p) (.detach p)
      t.setPort p { t.port p with collect := .detach mask mask true }
    | _ => s

/-- GO: the leases of the named axes that the requester owns are renewed and each is passed a start. The port unit is
handed the axes and gathers the answers; with no start passed its reply is ready (R116, R118). -/
def execGo (p : Port) (s : State) : Host.Outcome State Fault Refusal :=
  .next <|
    match s.claim.inbox.get p with
    | some (.go mask) =>
      let started := fun n => inMask mask n && s.owns p n
      let t := ((s.claimTaken p).renewAll started).sendAxes started (.start p)
      (t.setPort p { t.port p with collect := .go mask 0 (maskOf started) }).collected p
    | _ => s

/-! ## The claim unit's own events -/

/-- LEASE_EXPIRY: the time of the lease runs out; the claim ends, the change is reported, LAPSED is posted to the former
owner and a lapse action goes to the axis (R123, R132). An axis without a lease never lapses. -/
def execLeaseExpiry (n : AxisId) (s : State) : Host.Outcome State Fault Refusal :=
  .next <|
    match (s.entry n).owner with
    | some p =>
      if (s.entry n).leasePeriod = 0 then s
      else
        ((((s.advance (s.entry n).leaseLeft).endClaim n).sendNotice [.posting .lapsed n p]).sendAxis n .lapse)
    | none => s

/-- CLAIM_ASK: the claim unit answers an axis controller's ask with owner and lease_remaining (R26, R136). -/
def execClaimAsk (n : AxisId) (s : State) : Host.Outcome State Fault Refusal :=
  .next <|
    match (s.axis n).busy with
    | .claimAsk p view none =>
      s.setAxis n
        { s.axis n with busy := .claimAsk p view (some ((s.entry n).owner, (s.entry n).leaseRemaining)) }
    | _ => s

/-- CLAIM_RESTART_STEP: every owned entry is cleared and reported; with nothing to report the claim unit reports done in
the step itself (R141, R183). -/
def execClaimRestartStep (s : State) : Host.Outcome State Fault Refusal :=
  .next <|
    if s.claim.restartIn then
      let owned := fun n => (s.entry n).owner.isSome
      let t := s.endClaims owned true
      let u : State :=
        { t with claim := { t.claim with restartIn := false, awaiting := (allEight.filter owned).length } }
      if (allEight.filter owned).length = 0 then { u with start := { u.start with doneSent := true } } else u
    else s

/-- REPORT_ANSWER: the claim unit takes an answer of the notice unit; with the last one it reports done (R183). -/
def execReportAnswer (s : State) : Host.Outcome State Fault Refusal :=
  .next <|
    if s.claim.answersIn = 0 ∨ s.claim.awaiting = 0 then s
    else
      let t : State :=
        { s with
          claim := { s.claim with answersIn := s.claim.answersIn - 1, awaiting := s.claim.awaiting - 1 } }
      if t.claim.awaiting = 0 then { t with start := { t.start with doneSent := true } } else t

end Sys2Proof.Machine
end

