-- ==== Sys2Proof/Machine/Notices.lean ====
section
/-! DEFINITION. The notice unit: filing, routing, attention, and the meanings of its commands (8 R142 to R157). -/

namespace Sys2Proof.Machine

/-! ## Records and attention -/

/-- The kind set that holds one kind (Table 10-4). -/
def NoticeKind.set (k : NoticeKind) : Byte := oneMask k.bit

/-- The record with a notice filed (R144): its kind becomes pending; a DONE also sets the tag and raises the count, up to
15. -/
def NoticeRecord.file (r : NoticeRecord) (k : NoticeKind) (tag : Byte) : NoticeRecord :=
  match k with
  | .done =>
    { pending := r.pending ||| k.set, lastDoneTag := tag, doneCount := min Config.doneCountMax (r.doneCount + 1) }
  | _ => { r with pending := r.pending ||| k.set }

/-- The record with kinds acknowledged (R153 steps 2 and 3). -/
def NoticeRecord.acknowledge (r : NoticeRecord) (kinds : Byte) : NoticeRecord :=
  if kinds.getLsbD NoticeKind.done.bit.val then
    { pending := r.pending &&& ~~~kinds, lastDoneTag := 0, doneCount := 0 }
  else { r with pending := r.pending &&& ~~~kinds }

/-- A port's record for an axis. -/
def NoticeUnit.record (u : NoticeUnit) (p : Port) (n : AxisId) : NoticeRecord := (u.records.get p).get n

/-- `u` with a port's record for an axis replaced. -/
def NoticeUnit.setRecord (u : NoticeUnit) (p : Port) (n : AxisId) (r : NoticeRecord) : NoticeUnit :=
  { u with records := u.records.set p ((u.records.get p).set n r) }

/-- A port's attention summary: the axes with a pending kind that its notice_mask enables (R151). -/
def NoticeUnit.summary (u : NoticeUnit) (p : Port) : Byte :=
  maskOf fun n => (u.record p n).pending &&& u.noticeMask.get p != 0

/-- A port's attention line is asserted exactly when its summary is not empty (R150, R151). -/
def NoticeUnit.attention (u : NoticeUnit) (p : Port) : Bool := u.summary p != 0

/-! ## Filing -/

/-- Files a notice in one port's record for an axis (R144). -/
def NoticeUnit.file (u : NoticeUnit) (p : Port) (n : AxisId) (k : NoticeKind) (tag : Byte) : NoticeUnit :=
  u.setRecord p n ((u.record p n).file k tag)

/-- Whether an axis controller's posting for axis `n` reaches port `p`: by the routing copy or by the watch mask
(R145). -/
def NoticeUnit.reaches (u : NoticeUnit) (p : Port) (n : AxisId) : Bool :=
  u.routing.get n == some p || inMask (u.watchMask.get p) n

/-- Files an axis controller's posting in the records of the ports it reaches, once each (R145). -/
def NoticeUnit.route (u : NoticeUnit) (n : AxisId) (x : Posting) : NoticeUnit :=
  let first := if u.reaches .a n then u.file .a n x.kind x.tag else u
  if u.reaches .b n then first.file .b n x.kind x.tag else first

/-- Empties one port's eight records (R155, R156). -/
def NoticeUnit.emptyRecords (u : NoticeUnit) (p : Port) : NoticeUnit :=
  { u with records := u.records.set p (Eight.same NoticeRecord.empty) }

/-! ## Meanings -/

/-- The request of a port that the notice unit has taken leaves its inbox, and its reply is sent. -/
def State.noticeReply (s : State) (p : Port) (u : NoticeUnit) (r : Reply) : State :=
  ({ s with notice := { u with inbox := u.inbox.set p none } } : State).reply p r

/-- NOTICE_POSTING: the notice unit takes the oldest posting of a source (R142, R145, R146). A posting of the claim unit
waits its turn behind the reports sent before it (R135). -/
def execNoticePosting (src : PostSource) (s : State) : Host.Outcome State Fault Refusal :=
  .next <|
    match src with
    | .axis n =>
      match (s.axis n).posts with
      | x :: rest => { s.setAxis n { s.axis n with posts := rest } with notice := s.notice.route n x }
      | [] => s
    | .claimUnit =>
      match s.claim.toNotice with
      | .posting k n p :: rest =>
        { s with claim := { s.claim with toNotice := rest }, notice := s.notice.file p n k 0 }
      | _ => s

/-- OWNER_CHANGE_REPORT: the routing copy takes the new owner (R147); a report of a restart step is answered to the claim
unit (R142). -/
def execOwnerChangeReport (s : State) : Host.Outcome State Fault Refusal :=
  .next <|
    match s.claim.toNotice with
    | .report n owner answered :: rest =>
      { s with
        claim :=
          { s.claim with
            toNotice := rest
            answersIn := if answered then s.claim.answersIn + 1 else s.claim.answersIn }
        notice := { s.notice with routing := s.notice.routing.set n owner } }
    | _ => s

/-- DETACH_CLEAR: the requester's records and watch_mask are emptied, and its port unit is answered (R155, R142). -/
def execDetachClear (s : State) : Host.Outcome State Fault Refusal :=
  .next <|
    match s.claim.toNotice with
    | .clear p :: rest =>
      ({ s with
        claim := { s.claim with toNotice := rest }
        notice := { s.notice.emptyRecords p with watchMask := s.notice.watchMask.set p 0 } } : State).setPort p
        { s.port p with clearAnswer := true }
    | _ => s

/-- Whether what the claim unit has sent is a LAPSED or LOST: reports and the clear of a DETACH are none (R143). -/
def NoticeMsg.isPosting : NoticeMsg → Bool
  | .report _ _ _ => false
  | .posting _ _ _ => true
  | .clear _ => false

/-- Whether a posting of the claim unit or of an axis controller is on its way to the notice unit (R142). -/
def State.postingWaits (s : State) : Bool :=
  s.claim.toNotice.any NoticeMsg.isPosting || allEight.any fun n => !(s.axis n).posts.isEmpty

/-- RESTART_CLEAR: all sixteen records are emptied and start-up control is answered (R156, R142). The clear removes the
postings made before it, such as the LAPSED of an expiry before the claim unit's restart step (R141, R185), so it is taken once
none of them waits (DEDUCED, unsafe: R142 orders no two sources; log entry 22). -/
def execRestartClear (s : State) : Host.Outcome State Fault Refusal :=
  .next <|
    if s.notice.clearIn && !s.postingWaits then
      { s with
        notice := { (s.notice.emptyRecords .a).emptyRecords .b with clearIn := false }
        start := { s.start with clearAnswered := true } }
    else s

/-- READ_NOTICES: the requester's record for one axis (R152). -/
def execReadNotices (p : Port) (s : State) : Host.Outcome State Fault Refusal :=
  .next <|
    match s.notice.inbox.get p with
    | some (.readNotices axis) =>
      match axisOf axis with
      | none => s.noticeReply p s.notice (refusal .badArgument)
      | some n => s.noticeReply p s.notice (replyOk (s.notice.record p n).data)
    | _ => s

/-- ACK_NOTICES: the record is captured, then the kinds named are cleared (R153). -/
def execAckNotices (p : Port) (s : State) : Host.Outcome State Fault Refusal :=
  .next <|
    match s.notice.inbox.get p with
    | some (.ackNotices axis kinds) =>
      match axisOf axis with
      | none => s.noticeReply p s.notice (refusal .badArgument)
      | some n =>
        s.noticeReply p (s.notice.setRecord p n ((s.notice.record p n).acknowledge kinds))
          (replyOk (s.notice.record p n).data)
    | _ => s

/-- SET_NOTICE_MASK (R148). -/
def execSetNoticeMask (p : Port) (s : State) : Host.Outcome State Fault Refusal :=
  .next <|
    match s.notice.inbox.get p with
    | some (.setNoticeMask kinds) =>
      s.noticeReply p { s.notice with noticeMask := s.notice.noticeMask.set p kinds } (replyOk [])
    | _ => s

/-- SET_WATCH (R149). -/
def execSetWatch (p : Port) (s : State) : Host.Outcome State Fault Refusal :=
  .next <|
    match s.notice.inbox.get p with
    | some (.setWatch mask) =>
      s.noticeReply p { s.notice with watchMask := s.notice.watchMask.set p mask } (replyOk [])
    | _ => s

end Sys2Proof.Machine
end

