-- ==== Sys2Proof/Machine/Frames.lean ====
section
/-! DEFINITION. The meanings of the frame commands and of the port units' own requests (9 R158 to R174, 11 R187). The row
FRAME_BYTE is one edge of SCK (DESIGN CHOICE, safe; log entry 9). -/

namespace Sys2Proof.Machine

/-! ## FRAME_START -/

/-- The port unit at the assertion of SEL with READY asserted: a frame begins (R159). -/
def PortUnit.startFrame (u : PortUnit) (summary : Byte) : PortUnit :=
  { u with
    sel := true
    miso := .level u.lastFrameGood
    frame := .command
    inByte := false
    sckLow := false
    bits := []
    outByte := 0
    rx := []
    summary := summary
    waited := false
    out := none
    frameError := none
    held := none
    mine := false }

/-- FRAME_START: SEL is asserted (R159). Before READY the assertion is disregarded and begins no frame (R181). MISO then
stays high-impedance for as long as this SEL is asserted, after READY too, since the frame state stays IDLE (Table 9-2, where
R158 has MISO driven while SEL is asserted: DEDUCED, unsafe; log entry 21). -/
def execFrameStart (p : Port) (s : State) : Host.Outcome State Fault Refusal :=
  .next <|
    let t := s.settle p
    if (t.port p).sel then t
    else if t.start.phase.ready then t.setPort p ((t.port p).startFrame (t.notice.summary p))
    else t.setPort p { t.port p with sel := true }

/-! ## FRAME_BYTE -/

/-- The port unit at the first falling edge of a byte whose MISO content is `b`: MISO takes the most significant bit (R158). -/
def PortUnit.shiftOut (u : PortUnit) (b : Byte) : PortUnit :=
  { u with inByte := true, sckLow := true, bits := [], outByte := b, miso := .level (b.getMsbD 0) }

/-- The port unit at a later falling edge of a byte: MISO takes the next bit (R158). -/
def PortUnit.nextBit (u : PortUnit) : PortUnit :=
  { u with sckLow := true, miso := .level (u.outByte.getMsbD u.bits.length) }

/-- The port unit at a rising edge of a byte before the eighth: a bit is sampled from MOSI (R158). -/
def PortUnit.sample (u : PortUnit) (mosi : Bool) : PortUnit := { u with sckLow := false, bits := u.bits ++ [mosi] }

/-- The port unit at the eighth rising edge of a byte: no byte is in progress (R158). -/
def PortUnit.byteDone (u : PortUnit) : PortUnit := { u with inByte := false, sckLow := false, bits := [] }

/-- The port unit once a byte has begun: its MISO content by the frame state, from the state it holds at that moment
(R158, R160, R161, R167, R168). `status` is the port status byte. -/
def PortUnit.beginByte (u : PortUnit) (status : Byte) : PortUnit :=
  match u.frame with
  | .idle => u
  | .command => u.shiftOut u.summary
  | .arguments => u.shiftOut (if u.rx.length = 1 then status else 0x00)
  | .waiting =>
    match u.waited, u.out with
    | true, some _ => { u.shiftOut 0xA5 with frame := .replying }
    | _, _ => { u.shiftOut 0x00 with waited := true }
  | .replying =>
    match u.out with
    | some (b :: rest) => { u.shiftOut b with out := some rest }
    | _ => u.shiftOut 0xFF
  | .draining => (u.countError .extraBytes).shiftOut 0xFF
  | .rejecting => u.shiftOut 0xFF

/-- The port unit once byte 0 is complete (R164). -/
def PortUnit.codeByte (u : PortUnit) (b : Byte) : PortUnit :=
  match argCount b with
  | some _ => { u with frame := .arguments, rx := [b] }
  | none => { u.countError .unknownCode with frame := .rejecting }

/-- Whether the byte that completes in ARGUMENTS is the check byte: it stands at position 1 plus the number of arguments
(R164). -/
def PortUnit.atCheck (u : PortUnit) : Bool :=
  match u.rx with
  | [] => false
  | code :: args => argCount code == some args.length

/-- The request that a check byte lets pass (R164). -/
def PortUnit.checked (u : PortUnit) (b : Byte) : Option Request :=
  if crc8 u.rx = b then parseRequest u.rx else none

/-- The state once a byte is complete (R160, R164, R168). A request that passes its check byte is held in its frame and
handed on at once where nothing defers it (R165, R166). -/
def State.completeByte (s : State) (p : Port) (b : Byte) : State :=
  let u := s.port p
  match u.frame with
  | .idle => s
  | .command => s.setPort p (u.codeByte b)
  | .arguments =>
    if u.atCheck then
      match u.checked b with
      | some r => (s.setPort p { u with frame := .waiting, held := some r }).handHeld p
      | none => s.setPort p { u.countError .checkFailed with frame := .rejecting }
    else s.setPort p { u with rx := u.rx ++ [b] }
  | .waiting => s
  | .replying => s.setPort p { u with frame := if u.out = some [] then .draining else .replying }
  | .draining => s
  | .rejecting => s

/-- The state at a falling edge of SCK: it begins a byte, or MISO takes the next bit (R158). -/
def State.sckFalls (s : State) (p : Port) : State :=
  let u := s.port p
  if u.inByte then (if u.sckLow then s else s.setPort p u.nextBit)
  else s.setPort p (u.beginByte (s.statusByte p))

/-- The state at a rising edge of SCK, with the level of MOSI that it samples: a bit of the byte, or its last one (R158). -/
def State.sckRises (s : State) (p : Port) (mosi : Bool) : State :=
  let u := s.port p
  if u.inByte && u.sckLow then
    if u.bits.length < 7 then s.setPort p (u.sample mosi)
    else (s.setPort p u.byteDone).completeByte p (byteOfBits (u.bits ++ [mosi]))
  else s

/-- FRAME_BYTE: an edge of SCK in a frame (R158, R160). An edge that repeats SCK's level is none, and edges outside a frame are
disregarded. -/
def execFrameByte (p : Port) (e : SckEdge) (s : State) : Host.Outcome State Fault Refusal :=
  .next <|
    let t := s.settle p
    match (t.port p).frame, e with
    | .idle, _ => t
    | _, .falls => t.sckFalls p
    | _, .rises mosi => t.sckRises p mosi

/-! ## FRAME_END -/

/-- The frame error that a release of SEL makes arise, if no earlier one has (R170). -/
def PortUnit.endError (u : PortUnit) : Option FrameError :=
  match u.frame with
  | .idle => none
  | .command => if u.inByte then some .partialByte else none
  | .arguments => if u.inByte then some .partialByte else some .shortFrame
  | .waiting =>
    if u.inByte then some .partialByte else if u.held.isSome then some .shortFrame else some .replyCut
  | .replying => if u.inByte then some .partialByte else some .replyCut
  | .draining => none
  | .rejecting => none

/-- The port unit with the error of a release counted, if there is one. -/
def PortUnit.countEnd (u : PortUnit) : PortUnit :=
  match u.endError with
  | some e => u.countError e
  | none => u

/-- Whether the release of SEL ends a frame with at least one SCK edge: an empty frame, or none, leaves last_frame_good
as it is (R159, R172). -/
def PortUnit.hasFrame (u : PortUnit) : Bool :=
  match u.frame with
  | .idle => false
  | .command => u.inByte
  | _ => true

/-- The port unit at the release of SEL: the frame ends, a held request is dropped, and a reply not returned is lost
(R160, R166, R170, R172). -/
def PortUnit.endFrame (u : PortUnit) : PortUnit :=
  { u.countEnd with
    sel := false
    miso := .highImpedance
    frame := .idle
    inByte := false
    sckLow := false
    bits := []
    outByte := 0
    rx := []
    waited := false
    out := none
    frameError := none
    held := none
    mine := false
    lastFrameGood := if u.hasFrame then decide (u.countEnd.frameError = none) else u.lastFrameGood }

/-- FRAME_END: SEL is released (R170). -/
def execFrameEnd (p : Port) (s : State) : Host.Outcome State Fault Refusal :=
  .next <|
    let t := s.settle p
    if (t.port p).sel then t.setPort p (t.port p).endFrame else t

/-! ## Replies and the port's own requests -/

/-- REPLY_ARRIVAL: a reply reaches the port unit (R165, R169). -/
def execReplyArrival (p : Port) (s : State) : Host.Outcome State Fault Refusal :=
  .next <|
    let t := s.settle p
    match (t.port p).replyIn with
    | some r => (t.setPort p { t.port p with replyIn := none }).arrive p r
    | none => t

/-- READ_DEVICE: the port unit takes it (R187). -/
def execReadDevice (p : Port) (s : State) : Host.Outcome State Fault Refusal :=
  .next <| if (s.port p).inHand = some .readDevice then s.takeReadDevice p else s

/-- READ_PORT_STATUS: the port unit takes it (R173). -/
def execReadPortStatus (p : Port) (s : State) : Host.Outcome State Fault Refusal :=
  .next <| if (s.port p).inHand = some .readPortStatus then s.takeReadPortStatus p else s

/-- CLEAR_PORT_ERRORS: the port unit takes it (R174). -/
def execClearPortErrors (p : Port) (s : State) : Host.Outcome State Fault Refusal :=
  .next <| if (s.port p).inHand = some .clearPortErrors then s.takeClearPortErrors p else s

/-- START_ANSWER: the port unit takes an axis controller's answer to a start; with the last one its reply is ready
(R118). -/
def execStartAnswer (p : Port) (n : AxisId) (s : State) : Host.Outcome State Fault Refusal :=
  .next <|
    let t := s.settle p
    match (t.port p).startAnswers.get n, (t.port p).collect with
    | some started, .go named sofar awaited =>
      (t.setPort p
        { t.port p with
          startAnswers := (t.port p).startAnswers.set n none
          collect := .go named (if started then sofar ||| oneMask n else sofar) (awaited &&& ~~~oneMask n) }).collected p
    | _, _ => t

/-- DETACH_ANSWER: the port unit takes an answer of an axis controller or of the notice unit; with the last one its reply
is ready (R131). -/
def execDetachAnswer (p : Port) (src : AnswerSource) (s : State) : Host.Outcome State Fault Refusal :=
  .next <|
    let t := s.settle p
    match src, (t.port p).collect with
    | .axis n, .detach mask awaited clearAwaited =>
      if (t.port p).detachAnswers.get n then
        (t.setPort p
          { t.port p with
            detachAnswers := (t.port p).detachAnswers.set n false
            collect := .detach mask (awaited &&& ~~~oneMask n) clearAwaited }).collected p
      else t
    | .noticeUnit, .detach mask awaited _ =>
      if (t.port p).clearAnswer then
        (t.setPort p { t.port p with clearAnswer := false, collect := .detach mask awaited false }).collected p
      else t
    | _, _ => t

/-- PORT_HALT_LEVEL: the port unit takes the oldest change of the filtered HALT level (R186). -/
def execPortHaltLevel (p : Port) (s : State) : Host.Outcome State Fault Refusal :=
  .next <|
    let t := s.settle p
    match (t.port p).haltIn with
    | level :: rest => t.setPort p { t.port p with haltLevel := level, haltIn := rest }
    | [] => t

end Sys2Proof.Machine
end

