-- ==== Sys2Proof/Machine/Profiles.lean ====
section
/-! DEFINITION. The profile store: references, and the meanings of its commands (1 R20, 2 R39, 4 R84 to R98). -/

namespace Sys2Proof.Machine

/-! ## References -/

/-- The entry with one reference more (R89). -/
def Entry.raise (e : Entry) : Entry := { e with refCount := e.refCount + 1 }

/-- The entry with one reference fewer; the count does not fall below 0 (R89, R91). -/
def Entry.lower (e : Entry) : Entry := { e with refCount := e.refCount - 1 }

/-- `s` with an entry of the profile table replaced. -/
def State.setTable (s : State) (k : ProfileId) (e : Entry) : State :=
  { s with store := { s.store with entries := s.store.entries.set k e } }

/-- One reference more on an entry (R90). -/
def State.takeRef (s : State) (k : ProfileId) : State := s.setTable k (s.table.get k).raise

/-- One reference fewer on an entry (R91). -/
def State.giveRef (s : State) (k : ProfileId) : State := s.setTable k (s.table.get k).lower

/-- The answer to an admission take: PROFILE_EMPTY, FIT_CONFLICT or OK (R39). -/
def admissionAnswer (e : Entry) (g : Segment) : Status :=
  match e.state.shape with
  | none => .profileEmpty
  | some h => if g.reversible = true ∧ fits h g.rate = false then .fitConflict else .ok

/-- The answer to a configuration exchange: PROFILE_EMPTY, FIT_CONFLICT or OK (R20). -/
def configurationAnswer (table : Eight Entry) (c : AxisConfig) : Status :=
  match (table.get c.defaultProfile).state.shape, (table.get c.parkProfile).state.shape with
  | some d, some k => if fits d c.defaultRate = true ∧ fits k c.parkRate = true then .ok else .fitConflict
  | _, _ => .profileEmpty

/-- The request of a port that the store has taken leaves its inbox, and its reply is sent. -/
def State.storeReply (s : State) (p : Port) (r : Reply) : State :=
  ({ s with store := { s.store with inbox := s.store.inbox.set p none } } : State).reply p r

/-! ## Requests of the ports -/

/-- DEFINE_PROFILE (R93). -/
def execDefineProfile (p : Port) (s : State) : Host.Outcome State Fault Refusal :=
  .next <|
    match s.store.inbox.get p with
    | some (.defineProfile entry fields) =>
      match axisOf entry, shapeOf fields with
      | some k, some h =>
        if k = 0 then s.storeReply p (refusal .profileReadOnly)
        else if 0 < (s.table.get k).refCount then s.storeReply p (refusal .profileInUse)
        else (s.setTable k { s.table.get k with state := .defined h }).storeReply p (replyOk [])
      | _, _ => s.storeReply p (refusal .badArgument)
    | _ => s

/-- DELETE_PROFILE (R94). -/
def execDeleteProfile (p : Port) (s : State) : Host.Outcome State Fault Refusal :=
  .next <|
    match s.store.inbox.get p with
    | some (.deleteProfile entry) =>
      match axisOf entry with
      | some k =>
        if k = 0 then s.storeReply p (refusal .profileReadOnly)
        else if 0 < (s.table.get k).refCount then s.storeReply p (refusal .profileInUse)
        else (s.setTable k { s.table.get k with state := .empty }).storeReply p (replyOk [])
      | none => s.storeReply p (refusal .badArgument)
    | _ => s

/-- READ_PROFILE (R95). -/
def execReadProfile (p : Port) (s : State) : Host.Outcome State Fault Refusal :=
  .next <|
    match s.store.inbox.get p with
    | some (.readProfile entry) =>
      match axisOf entry with
      | some k => s.storeReply p (replyOk (s.table.get k).data)
      | none => s.storeReply p (refusal .badArgument)
    | _ => s

/-! ## Exchanges of the axis controllers -/

/-- ADMISSION_TAKE: the store answers and, on OK, raises the count; the axis controller then admits the segment, which
activates on an IDLE axis, or refuses the QUEUE (R39, R40). -/
def execAdmissionTake (n : AxisId) (s : State) : Host.Outcome State Fault Refusal :=
  .next <|
    match (s.axis n).busy with
    | .admission p g =>
      match g.profile with
      | some k =>
        if admissionAnswer (s.table.get k) g = .ok then
          (s.takeRef k).runAxis n { s.axis n with busy := .none, waiting := (s.axis n).waiting ++ [g] }
            [.wake, .replyLength p]
        else
          s.runAxis n { s.axis n with busy := .none }
            [.send (.reply p (refusal (admissionAnswer (s.table.get k) g)))]
      | none => s
    | _ => s

/-- CONFIGURATION_EXCHANGE: the store answers and, on OK, takes the new references and gives back the old ones in one
step; the axis controller then writes the configuration, or refuses the CONFIGURE (R20, R21). -/
def execConfigurationExchange (n : AxisId) (s : State) : Host.Outcome State Fault Refusal :=
  .next <|
    match (s.axis n).busy with
    | .configure p c =>
      if configurationAnswer s.table c = .ok then
        ((((s.takeRef c.defaultProfile).takeRef c.parkProfile).giveRef (s.axis n).config.defaultProfile).giveRef
            (s.axis n).config.parkProfile).runAxis n
          { s.axis n with busy := .none, config := c } [.send (.reply p (replyOk []))]
      else
        s.runAxis n { s.axis n with busy := .none }
          [.send (.reply p (refusal (configurationAnswer s.table c)))]
    | _ => s

/-- PARK_TAKE: the store raises the count of park_profile without a fit check; the axis controller then places the PARK
segment in the empty slot and goes on with its event (R90, R109). -/
def execParkTake (n : AxisId) (s : State) : Host.Outcome State Fault Refusal :=
  .next <|
    match (s.axis n).busy with
    | .parkTake rest =>
      match (s.axis n).slot with
      | none =>
        let t := s.takeRef (s.axis n).config.parkProfile
        t.finish n
          ((Axis.activate t.table { s.axis n with busy := .none } (parkSegment (s.axis n).config)).andThen t.table rest)
      | some _ => s.runAxis n { s.axis n with busy := .none } rest
    | _ => s

/-- GIVE: the store lowers the count of the profile that the leaving segment names; the segment leaves the axis, which
goes on with its event (R31, R91). -/
def execGive (n : AxisId) (s : State) : Host.Outcome State Fault Refusal :=
  .next <|
    match (s.axis n).busy with
    | .give what rest =>
      let after : Axis := ({ s.axis n with busy := .none } : Axis).left what
      match (s.axis n).leaver what with
      | some g =>
        match g.profile with
        | some k => (s.giveRef k).runAxis n after rest
        | none => s.runAxis n after rest
      | none => s.runAxis n after rest
    | _ => s

end Sys2Proof.Machine
end

