-- ==== Sys2Proof/Machine/StartUpControl.lean ====
section
/-! DEFINITION. The meanings of start-up control's commands: cold start, the HALT filter, RESTART (11 R180 to R186). -/

namespace Sys2Proof.Machine

/-! ## Cold start -/

/-- Every block at its cold values, with start-up control as given; the SEL pins and the waiting commands are outside the
device's hand (R180). -/
def State.toCold (s : State) (start : StartUp) : State :=
  { pending := s.pending, start := start, ports := s.ports.map fun _ u => PortUnit.cold u.sel
    claim := ClaimUnit.cold, store := ProfileStore.cold, notice := NoticeUnit.cold, axes := Eight.same Axis.cold }

/-- RST_LOW: whatever the device was doing ends, and every block is held at its cold values (R180). The strap latch
keeps its level until the next release of RST (R182). -/
def execRstLow (s : State) : Host.Outcome State Fault Refusal :=
  .next (s.toCold (StartUp.cold .inReset s.start.supvPin s.start.supvLatch s.start.haltPin))

/-- RST_RELEASE: STARTING is entered, SUPV is latched, and the HALT filter starts with its level released (R180,
R182). -/
def execRstRelease (supv : Bool) (s : State) : Host.Outcome State Fault Refusal :=
  .next <|
    match s.start.phase with
    | .inReset =>
      s.toCold { StartUp.cold .starting supv supv s.start.haltPin with startLeft := Config.startUpTime }
    | _ => s

/-- STARTING_END: READY is asserted and SERVING is entered (R180). -/
def execStartingEnd (s : State) : Host.Outcome State Fault Refusal :=
  .next <|
    match s.start.phase with
    | .starting => { s with start := { s.start with phase := .serving, startLeft := 0 } }
    | _ => s

/-! ## HALT -/

/-- The filter runs and the HALT pin differs from the filtered level (R186). The filter does not run while RST is low. -/
def StartUp.haltDiffers (u : StartUp) : Bool := decide (u.phase ≠ .inReset) && u.haltPin != u.haltFiltered

/-- The filtered level takes the level of the pin, and the change is sent to every axis controller and both port units
(R186). -/
def State.takeHalt (s : State) : State :=
  { s with
    start := { s.start with haltFiltered := s.start.haltPin, haltMeasure := 0 }
    axes := s.axes.map fun _ a => { a with haltIn := a.haltIn ++ [s.start.haltPin] }
    ports := s.ports.map fun _ u => { u with haltIn := u.haltIn ++ [s.start.haltPin] } }

/-- The filter with a change that is due made: the pin has held its level for 2 du (R186). Every later event of the pin finds
it made (DESIGN CHOICE, safe; log entry 5). -/
def State.filterHalt (s : State) : State :=
  if s.start.haltDiffers ∧ Config.haltFilterTime ≤ s.start.haltMeasure then s.takeHalt else s

/-- HALT_PIN: the pin takes a new level, and the measure of its difference from the filtered level starts afresh
(R186). -/
def execHaltPin (asserted : Bool) (s : State) : Host.Outcome State Fault Refusal :=
  .next <|
    if s.start.haltPin = asserted then s
    else
      let t := s.filterHalt
      { t with start := { t.start with haltPin := asserted, haltMeasure := 0 } }

/-- FILTERED_HALT_CHANGE: the pin has held its new level for 2 du; the filtered level takes it, and the change is sent to
every axis controller and both port units (R186). -/
def execFilteredHaltChange (s : State) : Host.Outcome State Fault Refusal :=
  .next <|
    if s.start.haltDiffers then (s.advance (Config.haltFilterTime - s.start.haltMeasure)).takeHalt else s

/-! ## RESTART -/

/-- RESTART from port `p`: refused to Port A where the latch is high; else restart-in-progress is set and the restart step
is sent to the axis controllers and the claim unit (R183). One that finds a restart in progress waits. -/
def execRestart (p : Port) (s : State) : Host.Outcome State Fault Refusal :=
  .next <|
    if s.start.phase = .serving ∧ s.start.restartWaiting.get p = true then
      let waiting := s.start.restartWaiting.set p false
      if s.start.supvLatch = true ∧ p = .a then
        ({ s with start := { s.start with restartWaiting := waiting } } : State).reply p (refusal .notSupervisor)
      else
        { s with
          start :=
            { s.start with
              phase := .restartStopping
              restartWaiting := waiting
              restarter := some p
              quietSeen := Eight.same false
              doneSeen := false }
          claim := { s.claim with restartIn := true }
          axes := s.axes.map fun _ a => { a with restartIn := true } }
    else s

/-- Whether all nine reports of a restart have been received (R184). -/
def StartUp.allQuiet (u : StartUp) : Bool := u.doneSeen && allEight.all fun n => u.quietSeen.get n

/-- Quiet reached: RESTART_CLEARING is entered and the notice unit is sent its clear (R184). -/
def State.reachQuiet (s : State) : State :=
  if s.start.phase = .restartStopping ∧ s.start.allQuiet = true then
    { s with start := { s.start with phase := .restartClearing }, notice := { s.notice with clearIn := true } }
  else s

/-- QUIET_REPORT: start-up control takes a quiet or done report (R184). -/
def execQuietReport (src : QuietSource) (s : State) : Host.Outcome State Fault Refusal :=
  .next <|
    match src with
    | .axis n =>
      if s.start.quietSent.get n then
        ({ s with
          start :=
            { s.start with
              quietSent := s.start.quietSent.set n false
              quietSeen := s.start.quietSeen.set n true } } : State).reachQuiet
      else s
    | .claimUnit =>
      if s.start.doneSent then
        ({ s with start := { s.start with doneSent := false, doneSeen := true } } : State).reachQuiet
      else s

/-- The restart's clear of a port unit (R175, R184 step 1). -/
def PortUnit.restartCleared (u : PortUnit) : PortUnit :=
  { u with errorCounter := 0, firstError := none, fresh := true }

/-- The reply to the RESTART in progress (R184 step 2). -/
def State.replyRestart (s : State) : State :=
  match s.start.restarter with
  | some p => s.reply p (replyOk [])
  | none => s

/-- RESTART_END: on the clear's answer both port units are cleared, the reply is given, SERVING is entered and the held
requests are handed on (R184). -/
def execRestartEnd (s : State) : Host.Outcome State Fault Refusal :=
  .next <|
    if s.start.clearAnswered = true ∧ s.start.phase = .restartClearing then
      let t := (s.settle .a).settle .b
      let cleared : State := { t with ports := t.ports.map fun _ u => u.restartCleared }
      let replied := cleared.replyRestart
      let serving : State :=
        { replied with
          start := { replied.start with phase := .serving, restarter := none, clearAnswered := false } }
      (serving.handHeld .a).handHeld .b
    else s

end Sys2Proof.Machine
end

