-- ==== Sys2Proof/Machine/Stepping.lean ====
section
/-! DEFINITION. The meanings of an axis controller's own events: the expiry of its period, the end of its pulse, and an
overcurrent (3 R59, R63, R64, R81). An event that has a time passes the time up to it
(DESIGN CHOICE, safe; log entry 4). -/

namespace Sys2Proof.Machine

/-- The pulse end of axis `n`, with the time up to it, and with the expiry that falls at it where one does (R63, R64). -/
def State.endPulse (s : State) (n : AxisId) (pl : Pulse) : State :=
  let t := s.advance pl.timeLeft
  t.finish n (Axis.pulseEnd t.table (t.axis n) pl ((s.axis n).endsWithPeriod pl))

/-- Whether the axis controller may take the end of its pulse: it is free, and its driver has not cut the pulse (R1,
R81). -/
def Axis.pulseRuns (a : Axis) : Bool := a.free && !a.tripped

/-- PULSE_END: the pulse reaches cut_at (R63). It may be taken late (DESIGN CHOICE, safe; log entry 5). -/
def execPulseEnd (n : AxisId) (s : State) : Host.Outcome State Fault Refusal :=
  .next <|
    match (s.axis n).pulse with
    | some pl => if (s.axis n).pulseRuns then s.endPulse n pl else s
    | none => s

/-- PERIOD_EXPIRY: the period timer runs out (R59). An expiry that falls at the end of its own pulse is one event with
it (R64); a pulse that ends before its period ends first (DESIGN CHOICE, safe; log entry 15). -/
def execPeriodExpiry (n : AxisId) (s : State) : Host.Outcome State Fault Refusal :=
  .next <|
    if (s.axis n).free = false ∨ (s.axis n).periodExpired = true then s
    else
      match (s.axis n).pulse, (s.axis n).tripped with
      | some pl, false => if (s.axis n).endsWithPeriod pl then s.endPulse n pl else s
      | _, _ =>
        let t := s.advance (s.axis n).periodLeft
        t.finish n (Axis.periodEnd t.table (t.axis n))

/-- The driver of axis `n` detects an overcurrent: both outputs go inactive and the pulse's time stops. Nothing is detected
while no output is active (R81; DEDUCED, safe; log entry 12). -/
def Axis.detect (table : Eight Entry) (a : Axis) : Axis :=
  match a.driven table with
  | some _ => { a with tripped := true }
  | none => a

/-- OVERCURRENT: detected, and taken as soon as the controller is free (R81, R82, R28). -/
def execOvercurrent (n : AxisId) (s : State) : Host.Outcome State Fault Refusal :=
  .next <|
    let a := (s.axis n).detect s.table
    match a.pulse with
    | some pl =>
      if a.free && a.tripped then s.finish n (Axis.overcurrent s.table a pl) else s.setAxis n a
    | none => s

end Sys2Proof.Machine
end

