-- ==== Sys2Proof/Machine/Dispatch.lean ====
section
/-! DEFINITION. The dispatcher: one arm per command, in the order of spec/opcode_table.json. -/

namespace Sys2Proof.Machine

def exec (i : Instr) (s : State) : Host.Outcome State Fault Refusal :=
  match i with
  | .rstLow => Sys2Proof.Machine.execRstLow s
  | .rstRelease supv => Sys2Proof.Machine.execRstRelease supv s
  | .startingEnd => Sys2Proof.Machine.execStartingEnd s
  | .haltPin asserted => Sys2Proof.Machine.execHaltPin asserted s
  | .filteredHaltChange => Sys2Proof.Machine.execFilteredHaltChange s
  | .axisHaltChange n => Sys2Proof.Machine.execAxisHaltChange n s
  | .portHaltLevel p => Sys2Proof.Machine.execPortHaltLevel p s
  | .frameStart p => Sys2Proof.Machine.execFrameStart p s
  | .frameByte p e => Sys2Proof.Machine.execFrameByte p e s
  | .frameEnd p => Sys2Proof.Machine.execFrameEnd p s
  | .replyArrival p => Sys2Proof.Machine.execReplyArrival p s
  | .readDevice p => Sys2Proof.Machine.execReadDevice p s
  | .readPortStatus p => Sys2Proof.Machine.execReadPortStatus p s
  | .clearPortErrors p => Sys2Proof.Machine.execClearPortErrors p s
  | .restart p => Sys2Proof.Machine.execRestart p s
  | .axisRestartStep n => Sys2Proof.Machine.execAxisRestartStep n s
  | .claimRestartStep => Sys2Proof.Machine.execClaimRestartStep s
  | .reportAnswer => Sys2Proof.Machine.execReportAnswer s
  | .quietReport src => Sys2Proof.Machine.execQuietReport src s
  | .restartClear => Sys2Proof.Machine.execRestartClear s
  | .restartEnd => Sys2Proof.Machine.execRestartEnd s
  | .claim p => Sys2Proof.Machine.execClaim p s
  | .release p => Sys2Proof.Machine.execRelease p s
  | .releaseAction n => Sys2Proof.Machine.execReleaseAction n s
  | .keep p => Sys2Proof.Machine.execKeep p s
  | .seize p => Sys2Proof.Machine.execSeize p s
  | .seizeAction n => Sys2Proof.Machine.execSeizeAction n s
  | .detach p => Sys2Proof.Machine.execDetach p s
  | .detachAction n => Sys2Proof.Machine.execDetachAction n s
  | .detachClear => Sys2Proof.Machine.execDetachClear s
  | .detachAnswer p src => Sys2Proof.Machine.execDetachAnswer p src s
  | .leaseExpiry n => Sys2Proof.Machine.execLeaseExpiry n s
  | .lapseAction n => Sys2Proof.Machine.execLapseAction n s
  | .authorisation p => Sys2Proof.Machine.execAuthorisation p s
  | .go p => Sys2Proof.Machine.execGo p s
  | .start n => Sys2Proof.Machine.execStart n s
  | .startAnswer p n => Sys2Proof.Machine.execStartAnswer p n s
  | .enable n => Sys2Proof.Machine.execEnable n s
  | .disable n => Sys2Proof.Machine.execDisable n s
  | .configure n => Sys2Proof.Machine.execConfigure n s
  | .setPosition n => Sys2Proof.Machine.execSetPosition n s
  | .clearFault n => Sys2Proof.Machine.execClearFault n s
  | .queue n => Sys2Proof.Machine.execQueue n s
  | .cancel n => Sys2Proof.Machine.execCancel n s
  | .pause n => Sys2Proof.Machine.execPause n s
  | .resume n => Sys2Proof.Machine.execResume n s
  | .skip n => Sys2Proof.Machine.execSkip n s
  | .stop n => Sys2Proof.Machine.execStop n s
  | .readAxis n p => Sys2Proof.Machine.execReadAxis n p s
  | .claimAsk n => Sys2Proof.Machine.execClaimAsk n s
  | .claimAnswer n => Sys2Proof.Machine.execClaimAnswer n s
  | .readQueue n p => Sys2Proof.Machine.execReadQueue n p s
  | .defineProfile p => Sys2Proof.Machine.execDefineProfile p s
  | .deleteProfile p => Sys2Proof.Machine.execDeleteProfile p s
  | .readProfile p => Sys2Proof.Machine.execReadProfile p s
  | .admissionTake n => Sys2Proof.Machine.execAdmissionTake n s
  | .configurationExchange n => Sys2Proof.Machine.execConfigurationExchange n s
  | .parkTake n => Sys2Proof.Machine.execParkTake n s
  | .give n => Sys2Proof.Machine.execGive n s
  | .periodExpiry n => Sys2Proof.Machine.execPeriodExpiry n s
  | .pulseEnd n => Sys2Proof.Machine.execPulseEnd n s
  | .overcurrent n => Sys2Proof.Machine.execOvercurrent n s
  | .noticePosting src => Sys2Proof.Machine.execNoticePosting src s
  | .ownerChangeReport => Sys2Proof.Machine.execOwnerChangeReport s
  | .readNotices p => Sys2Proof.Machine.execReadNotices p s
  | .ackNotices p => Sys2Proof.Machine.execAckNotices p s
  | .setNoticeMask p => Sys2Proof.Machine.execSetNoticeMask p s
  | .setWatch p => Sys2Proof.Machine.execSetWatch p s

end Sys2Proof.Machine
end

