-- ==== Sys2Proof/Machine/Pins.lean ====
section
/-! DEFINITION. The output pins, as the state drives them (11 Table 11-2). -/

namespace Sys2Proof.Machine

/-- READY (R180). -/
def State.readyPin (s : State) : Bool := s.start.phase.ready

/-- ATNA or ATNB: inactive until READY (R150, R181). -/
def State.attentionPin (s : State) (p : Port) : Bool := s.start.phase.ready && s.notice.attention p

/-- MISOA or MISOB (R158, R159). -/
def State.misoPin (s : State) (p : Port) : Miso := (s.port p).miso

/-- A coil output of an axis (R13, R61, R62). -/
def State.coilPin (s : State) (n : AxisId) (c : Coil) : Bool := (s.axis n).driven s.table == some c

end Sys2Proof.Machine
end

