-- ==== Sys2Proof/Safety.lean ====
section
/-! DEFINITION. What counts as a safe state of the PX8: the promises that the manual makes about every moment, written as
predicates of the state. Each is meant to be kept by every step from every state that has it. Here too stands the course
of an axis controller's event through its exchanges with the profile store. -/

namespace Sys2Proof.Machine

/-! ## The profile store and the references on it (4 R85 to R92) -/

/-- The references on entry `k` that a segment holds: one if it names the entry (R31). -/
def Segment.refs (k : ProfileId) (g : Segment) : Nat := if g.profile = some k then 1 else 0

/-- The references on entry `k` that a queue of segments holds. -/
def queueRefs (k : ProfileId) (q : List Segment) : Nat := (q.map (Segment.refs k)).sum

/-- The reference on entry `k` that an active slot holds. -/
def slotRefs (k : ProfileId) (slot : Option Active) : Nat :=
  match slot with
  | some act => act.seg.refs k
  | none => 0

/-- The references on entry `k` that a configuration holds (R4). -/
def AxisConfig.refs (k : ProfileId) (c : AxisConfig) : Nat :=
  (if c.defaultProfile = k then 1 else 0) + (if c.parkProfile = k then 1 else 0)

/-- The references on entry `k` that an axis holds (R89). -/
def Axis.refs (k : ProfileId) (a : Axis) : Nat := a.config.refs k + queueRefs k a.waiting + slotRefs k a.slot

/-- The references on entry `k` that the eight axes hold (R89). -/
def State.refs (s : State) (k : ProfileId) : Nat := (allEight.map fun n => (s.axis n).refs k).sum

/-- Every field of a profile's contents is one of the choices of Table 4-1 (R85). -/
def Shape.inChoices (h : Shape) : Prop :=
  h.fwdMain ∈ [6, 8, 10, 12, 14, 16, 20, 24] ∧ h.fwdTailCount ∈ [0, 2, 4, 6, 8] ∧ h.revLead ∈ [2, 3, 4, 5] ∧
    h.revMain ∈ [6, 8, 10, 12] ∧ h.revFinal ∈ [10, 14] ∧ h.revTailCount ∈ [0, 4]

/-- Profile `k` of a table fits a rate: it has contents, and their reverse total is no greater than the period (R92). -/
def FitsIn (table : Eight Entry) (k : ProfileId) (r : RateCode) : Prop :=
  ∃ h, (table.get k).state.shape = some h ∧ reverseTotal h ≤ period r

/-- A segment whose profile is in use as R39 lets it be: where it can run in reverse, its profile fits its rate. -/
def Segment.FitsIn (table : Eight Entry) (g : Segment) : Prop :=
  ∀ k, g.profile = some k → g.reversible = true → Machine.FitsIn table k g.rate

/-- The profile store is sound: counts count the references (R89), an entry in use is not EMPTY (R86), entry 0 alone is
BUILT_IN with its contents (R87), contents keep to their choices (R85), and what can run in reverse fits (R4, R62, R92). -/
structure State.StoreSound (s : State) : Prop where
  counted : ∀ k, (s.table.get k).refCount = s.refs k
  inUse : ∀ k, 0 < (s.table.get k).refCount → (s.table.get k).state ≠ .empty
  builtIn : ∀ k h, (s.table.get k).state = .builtIn h ↔ k = 0 ∧ h = builtInShape
  choices : ∀ k h, (s.table.get k).state.shape = some h → h.inChoices
  pairs : ∀ n, FitsIn s.table (s.axis n).config.defaultProfile (s.axis n).config.defaultRate ∧
    FitsIn s.table (s.axis n).config.parkProfile (s.axis n).config.parkRate
  waiting : ∀ n g, g ∈ (s.axis n).waiting → g.FitsIn s.table
  active : ∀ n act, (s.axis n).slot = some act → act.seg.FitsIn s.table

/-! ## The shape of an axis (1 R9, R11, R13, R22, 2 R32, 3 R60, R63, R66, R78) -/

/-- The states in which an axis holds an active segment (R13). -/
def AxisState.active : AxisState → Bool
  | .running => true
  | .armed => true
  | .held => true
  | .stopping => true
  | _ => false

/-- A task that ends the active segment. -/
def Task.ends : Task → Bool
  | .dropActive => true
  | .complete => true
  | _ => false

/-- A task that gives an axis without a segment its next state. -/
def Task.settles : Task → Bool
  | .next => true
  | .enterIdle _ => true
  | .enterFaulted _ => true
  | _ => false

/-- In a list of tasks, each that ends the active segment is followed by one that gives the axis its next state. -/
def tasksEnd : List Task → Bool
  | [] => true
  | t :: ts => (!t.ends || ts.any Task.settles) && tasksEnd ts

/-- An axis controller gives back its active segment's reference. -/
def Busy.givesActive : Busy → Bool
  | .give (.active _) _ => true
  | _ => false

/-- An axis controller is in the middle of an event that ends the active segment, now or later. -/
def Busy.endsActive : Busy → Bool
  | .give (.active _) _ => true
  | .give _ ts => ts.any Task.ends
  | _ => false

/-- An axis controller is in the middle of an event that goes on to give the axis its next state. -/
def Busy.settling : Busy → Bool
  | .give _ ts => ts.any Task.settles
  | _ => false

/-- Where a pulse's end action runs: NONE and SKIP in RUNNING, the others in STOPPING (R63). -/
def EndAction.runsIn : EndAction → AxisState
  | .none => .running
  | .skip => .running
  | .finish _ => .stopping

/-- Whether a segment is a PARK segment. -/
def Segment.isPark (g : Segment) : Bool :=
  match g.job with
  | .park _ _ => true
  | _ => false

/-- The shape that an axis's state, slot, pulse and queue keep. While an event holds an exchange the slot is still, or
already, on its way to the next state. -/
structure Axis.Shaped (a : Axis) : Prop where
  /-- What an exchange leaves to do gives the axis its next state. -/
  giveRest : ∀ what ts, a.busy = .give what ts → tasksEnd ts = true
  parkRest : ∀ ts, a.busy = .parkTake ts → tasksEnd ts = true ∧ a.state = .idle ∧ a.slot = none
  /-- In OFF, IDLE and FAULTED the active slot is empty (R13). -/
  empty : a.state.active = false → a.slot = none ∨ a.busy.givesActive = true
  /-- In RUNNING, ARMED, HELD and STOPPING the axis holds an active segment (R13). -/
  full : a.state.active = true → (a.slot ≠ none ∧ a.busy.givesActive = false) ∨ a.busy.settling = true
  /-- A pulse in progress is a step of the active segment, and its end action fits the state (R60, R63). -/
  pulse : ∀ pl, a.pulse = some pl → a.state = pl.endAction.runsIn ∧ a.busy.givesActive = false ∧
    ∃ act, a.slot = some act ∧ act.direction = some pl.direction ∧ 0 < act.remaining
  /-- An axis in STOPPING has a pulse in progress (R78). -/
  stopping : a.state = .stopping →
    a.pulse ≠ none ∨ (a.busy.settling = true ∧ (a.slot = none ∨ a.busy.endsActive = true))
  /-- fault_kind is NONE in every state except FAULTED (R22). -/
  fault : a.faultKind = none ↔ a.state ≠ .faulted
  /-- An axis in OFF has an empty waiting queue, and its pause_flag is clear (R9, R11). -/
  off : a.state = .off → a.waiting = [] ∧ a.pauseFlag = false
  /-- The waiting queue holds at most four segments (R32). -/
  queue : a.waiting.length ≤ Config.queueDepth
  /-- A PARK segment never stands in the waiting queue (R32). -/
  noPark : ∀ g, g ∈ a.waiting → g.isPark = false
  /-- A segment asks for admission where there is room and the state takes it (R35, R37). -/
  admitting : ∀ p g, a.busy = .admission p g →
    a.waiting.length < Config.queueDepth ∧ g.isPark = false ∧ a.state ≠ .off ∧ a.state ≠ .faulted
  /-- A dwell period belongs to an active DWELL, which has no direction (R30, R66). -/
  dwellMark : a.dwellMark = true → ∃ act, a.slot = some act ∧ act.seg.isDwell = true
  dwell : ∀ act, a.slot = some act → act.seg.isDwell = true → act.direction = none

/-! ## The position of an axis (1 R2, R3, R7) -/

/-- What CONFIGURE lets a configuration hold (R2, R3, R18, R19). -/
structure AxisConfig.Valid (c : AxisConfig) : Prop where
  ordered : c.loLimit.toNat ≤ c.hiLimit.toNat
  home : within c c.homePosition = true
  park : within c c.parkPosition = true
  overdrive : 1 ≤ c.homeOverdrive.toNat ∧ c.homeOverdrive.toNat ≤ 4095

/-- The steps that a segment has left stay within the limits (R7, R43, R44). -/
def Axis.pathWithin (a : Axis) (act : Active) : Prop :=
  match act.direction with
  | some .forward => a.position.toNat + act.remaining ≤ a.config.hiLimit.toNat
  | some .reverse => a.config.loLimit.toNat + act.remaining ≤ a.position.toNat
  | none => True

/-- Where an axis stands: a known position lies within the limits (R7), and the active segment does not lead it out. -/
structure Axis.Placed (a : Axis) : Prop where
  config : a.config.Valid
  known : a.positionValid = true → within a.config a.position = true
  path : ∀ act, a.slot = some act → a.positionValid = true → act.seg.isHome = false → a.pathWithin act
  /-- Steps made plus remaining is resolved_count, 0 to 65535 (R30). -/
  count : ∀ act, a.slot = some act → act.remaining ≤ act.resolvedCount ∧ act.resolvedCount ≤ 65535
  /-- A configuration that waits for its exchange keeps to the checks it has passed (R18, R19). -/
  configuring : ∀ p c, a.busy = .configure p c → c.Valid ∧ a.slot = none ∧
    (a.positionValid = true → within c a.position = true)

/-- Every axis is sound. -/
def State.AxesSound (s : State) : Prop := ∀ n, (s.axis n).Shaped ∧ (s.axis n).Placed

/-! ## The claim table, the ports and the notice records -/

/-- An entry of the claim table is sound: an unowned one holds no lease (R122), and the lease left is at most its period
(R123). -/
def ClaimEntry.Sound (e : ClaimEntry) : Prop :=
  (e.owner = none → e.leasePeriod = 0) ∧ e.leaseLeft ≤ e.leasePeriod.toNat * Config.leaseUnit

/-- The claim table is sound. -/
def State.ClaimsSound (s : State) : Prop := ∀ n, (s.entry n).Sound

/-- The owner that the last report on its way tells of axis `n`; that of the routing copy where none is on its way. -/
def reportedOwner (n : AxisId) (routing : Owner) (ms : List NoticeMsg) : Owner :=
  ms.foldl (fun o m =>
    match m with
    | .report k owner _ => if k = n then owner else o
    | _ => o) routing

/-- The routing copy follows the claim table: once the reports on their way are taken, the two agree (R135, R147). -/
def State.RoutingFollows (s : State) : Prop :=
  ∀ n, reportedOwner n (s.notice.routing.get n) s.claim.toNotice = (s.entry n).owner

/-- A port's error record is sound (R171). -/
def PortUnit.ErrorsSound (u : PortUnit) : Prop :=
  u.errorCounter ≤ Config.errorCounterMax ∧ (u.firstError = none ↔ u.errorCounter = 0)

/-- Both ports' error records are sound. -/
def State.PortsSound (s : State) : Prop := ∀ p, (s.port p).ErrorsSound

/-- A notice record is sound: done_count is 0 to 15 and counts the DONE notices that are pending (R144, R153). -/
def NoticeRecord.Sound (r : NoticeRecord) : Prop :=
  r.doneCount ≤ Config.doneCountMax ∧ (r.pending.getLsbD NoticeKind.done.bit.val = true ↔ 0 < r.doneCount) ∧
    (r.doneCount = 0 → r.lastDoneTag = 0)

/-- Every notice record is sound. -/
def State.NoticesSound (s : State) : Prop := ∀ p n, (s.notice.record p n).Sound

/-! ## What a command meets -/

/-- Two states differ in the ports and in the inboxes for requests alone: what each other block owns is as it was. -/
structure State.SameButPorts (s t : State) : Prop where
  pending : t.pending = s.pending
  start : ∃ w, t.start = { s.start with restartWaiting := w }
  claim : ∃ b, t.claim = { s.claim with inbox := b }
  store : ∃ b, t.store = { s.store with inbox := b }
  notice : ∃ b, t.notice = { s.notice with inbox := b }
  axes : ∀ k, ∃ b, t.axis k = { s.axis k with reads := b }

/-- The port unit of which a command is an event, besides the taking of its own requests. -/
def portUnitOf : Instr → Option Port
  | .frameStart p => some p
  | .frameByte p _ => some p
  | .frameEnd p => some p
  | .replyArrival p => some p
  | .startAnswer p _ => some p
  | .detachAnswer p _ => some p
  | .portHaltLevel p => some p
  | _ => none

/-- The command that takes what the claim unit has sent the axis controller of axis `n`. -/
def AxisMsg.takenBy (n : AxisId) : AxisMsg → Instr
  | .request _ .enable => .enable n
  | .request _ .disable => .disable n
  | .request _ (.configure _) => .configure n
  | .request _ (.setPosition _) => .setPosition n
  | .request _ .clearFault => .clearFault n
  | .request _ (.queue _) => .queue n
  | .request _ (.cancel _) => .cancel n
  | .request _ .pause => .pause n
  | .request _ .resume => .resume n
  | .request _ .skip => .skip n
  | .request _ .stop => .stop n
  | .start _ => .start n
  | .lapse => .lapseAction n
  | .release _ _ => .releaseAction n
  | .seize _ => .seizeAction n
  | .detach _ => .detachAction n

/-- The command that takes a request of port `p` first (Table 7-2). -/
def requestTakenBy (p : Port) : Request → Instr
  | .readDevice => .readDevice p
  | .readPortStatus => .readPortStatus p
  | .clearPortErrors => .clearPortErrors p
  | .restart => .restart p
  | .claim _ _ => .claim p
  | .release _ _ => .release p
  | .keep _ => .keep p
  | .seize _ _ _ => .seize p
  | .detach => .detach p
  | .mutate _ _ => .authorisation p
  | .readAxis axis => .readAxis (lowAxis axis) p
  | .readQueue axis => .readQueue (lowAxis axis) p
  | .go _ => .go p
  | .defineProfile _ _ => .defineProfile p
  | .deleteProfile _ => .deleteProfile p
  | .readProfile _ => .readProfile p
  | .readNotices _ => .readNotices p
  | .ackNotices _ _ => .ackNotices p
  | .setNoticeMask _ => .setNoticeMask p
  | .setWatch _ => .setWatch p

/-- Whether the axis controller of axis `n` is free and a command takes what the claim unit sent it first. -/
def State.offers (s : State) (n : AxisId) (c : Instr) : Bool :=
  (s.axis n).offer.map (AxisMsg.takenBy n) == some c

/-- Whether a command takes the request of port `p` that an inbox holds. -/
def holdsFor (inbox : PerPort (Option Request)) (p : Port) (c : Instr) : Bool :=
  (inbox.get p).map (requestTakenBy p) == some c

/-- Whether a port unit that builds the reply of a DETACH holds the answer of a block. -/
def PortUnit.holdsAnswer (u : PortUnit) (src : AnswerSource) : Bool :=
  match u.collect, src with
  | .detach _ _ _, .axis n => u.detachAnswers.get n
  | .detach _ _ _, .noticeUnit => u.clearAnswer
  | _, _ => false

/-- Whether a port unit that builds the reply of a GO holds the answer of an axis controller. -/
def PortUnit.holdsStart (u : PortUnit) (n : AxisId) : Bool :=
  match u.collect with
  | .go _ _ _ => (u.startAnswers.get n).isSome
  | _ => false

/-- Whether the event of a command is there to be taken (log entry 3). -/
def State.awaits (s : State) (c : Instr) : Bool :=
  match c with
  | .rstLow => true
  | .rstRelease _ => decide (s.start.phase = .inReset)
  | .startingEnd => decide (s.start.phase = .starting)
  | .haltPin level => s.start.haltPin != level
  | .filteredHaltChange => s.start.haltDiffers
  | .axisHaltChange n => (s.axis n).free && !(s.axis n).haltIn.isEmpty
  | .portHaltLevel p => !((s.settle p).port p).haltIn.isEmpty
  | .frameStart p => !((s.settle p).port p).sel
  | .frameByte p .falls =>
    decide (((s.settle p).port p).frame ≠ .idle) && !(((s.settle p).port p).inByte && ((s.settle p).port p).sckLow)
  | .frameByte p (.rises _) =>
    decide (((s.settle p).port p).frame ≠ .idle) && ((s.settle p).port p).inByte && ((s.settle p).port p).sckLow
  | .frameEnd p => ((s.settle p).port p).sel
  | .replyArrival p => ((s.settle p).port p).replyIn.isSome
  | .readDevice p => decide ((s.port p).inHand = some .readDevice)
  | .readPortStatus p => decide ((s.port p).inHand = some .readPortStatus)
  | .clearPortErrors p => decide ((s.port p).inHand = some .clearPortErrors)
  | .restart p => decide (s.start.phase = .serving) && s.start.restartWaiting.get p
  | .axisRestartStep n => (s.axis n).free && (s.axis n).restartIn && !(s.axis n).requestWaits
  | .claimRestartStep => s.claim.restartIn
  | .reportAnswer => decide (0 < s.claim.answersIn ∧ 0 < s.claim.awaiting)
  | .quietReport (.axis n) => s.start.quietSent.get n
  | .quietReport .claimUnit => s.start.doneSent
  | .restartClear => s.notice.clearIn && !s.postingWaits
  | .restartEnd => s.start.clearAnswered && decide (s.start.phase = .restartClearing)
  | .claim p => holdsFor s.claim.inbox p c
  | .release p => holdsFor s.claim.inbox p c
  | .releaseAction n => s.offers n c
  | .keep p => holdsFor s.claim.inbox p c
  | .seize p => holdsFor s.claim.inbox p c
  | .seizeAction n => s.offers n c
  | .detach p => holdsFor s.claim.inbox p c
  | .detachAction n => s.offers n c
  | .detachClear =>
    match s.claim.toNotice with
    | .clear _ :: _ => true
    | _ => false
  | .detachAnswer p src => ((s.settle p).port p).holdsAnswer src
  | .leaseExpiry n => (s.entry n).owner.isSome && decide ((s.entry n).leasePeriod ≠ 0)
  | .lapseAction n => s.offers n c
  | .authorisation p => holdsFor s.claim.inbox p c
  | .go p => holdsFor s.claim.inbox p c
  | .start n => s.offers n c
  | .startAnswer p n => ((s.settle p).port p).holdsStart n
  | .enable n => s.offers n c
  | .disable n => s.offers n c
  | .configure n => s.offers n c
  | .setPosition n => s.offers n c
  | .clearFault n => s.offers n c
  | .queue n => s.offers n c
  | .cancel n => s.offers n c
  | .pause n => s.offers n c
  | .resume n => s.offers n c
  | .skip n => s.offers n c
  | .stop n => s.offers n c
  | .readAxis n p =>
    (s.axis n).free &&
      match (s.axis n).reads.get p with
      | some r => !r.queue
      | none => false
  | .claimAsk n =>
    match (s.axis n).busy with
    | .claimAsk _ _ none => true
    | _ => false
  | .claimAnswer n =>
    match (s.axis n).busy with
    | .claimAsk _ _ (some _) => true
    | _ => false
  | .readQueue n p =>
    (s.axis n).free &&
      match (s.axis n).reads.get p with
      | some r => r.queue
      | none => false
  | .defineProfile p => holdsFor s.store.inbox p c
  | .deleteProfile p => holdsFor s.store.inbox p c
  | .readProfile p => holdsFor s.store.inbox p c
  | .admissionTake n =>
    match (s.axis n).busy with
    | .admission _ g => g.profile.isSome
    | _ => false
  | .configurationExchange n =>
    match (s.axis n).busy with
    | .configure _ _ => true
    | _ => false
  | .parkTake n =>
    match (s.axis n).busy with
    | .parkTake _ => true
    | _ => false
  | .give n =>
    match (s.axis n).busy with
    | .give _ _ => true
    | _ => false
  | .periodExpiry n =>
    (s.axis n).free && !(s.axis n).periodExpired &&
      match (s.axis n).pulse, (s.axis n).tripped with
      | some pl, false => (s.axis n).endsWithPeriod pl
      | _, _ => true
  | .pulseEnd n => (s.axis n).pulseRuns && (s.axis n).pulse.isSome
  | .overcurrent n => (s.axis n).pulse.isSome && ((s.axis n).tripped || ((s.axis n).driven s.table).isSome)
  | .noticePosting (.axis n) => !(s.axis n).posts.isEmpty
  | .noticePosting .claimUnit =>
    match s.claim.toNotice with
    | .posting _ _ _ :: _ => true
    | _ => false
  | .ownerChangeReport =>
    match s.claim.toNotice with
    | .report _ _ _ :: _ => true
    | _ => false
  | .readNotices p => holdsFor s.notice.inbox p c
  | .ackNotices p => holdsFor s.notice.inbox p c
  | .setNoticeMask p => holdsFor s.notice.inbox p c
  | .setWatch p => holdsFor s.notice.inbox p c

/-! ## Whole events -/

/-- The commands of a list carried out in order, as long as each gives a next state. -/
def execAll : List Instr → State → Host.Outcome State Fault Refusal
  | [], s => .next s
  | c :: cs, s =>
    match exec c s with
    | .next t => execAll cs t
    | .fault r => .fault r
    | .refused r => .refused r

/-- The edges of SCK by which a port shifts in the bytes of a frame, the most significant bit of each first (R158). -/
def byteCommands (p : Port) (bytes : List Byte) : List Instr :=
  bytes.flatMap fun b =>
    allEight.flatMap fun i => [.frameByte p .falls, .frameByte p (.rises (b.getMsbD i.val))]

/-- A profile table after the references of some segments have been given back (R91). -/
def givenBack (table : Eight Entry) (gone : ProfileId → Nat) : Eight Entry :=
  table.map fun k e => { e with refCount := e.refCount - gone k }

/-- `s` with the references of a list of segments given back. -/
def State.withGivenBack (s : State) (q : List Segment) : State :=
  { s with store := { s.store with entries := givenBack s.table fun k => queueRefs k q } }

/-- The commands by which an axis controller gives back the references of a list of segments: one give for each segment
that names a profile (R91). -/
def gives (n : AxisId) (q : List Segment) : List Instr :=
  (q.filter fun g => g.profile.isSome).map fun _ => .give n

/-- The axis `a` once the head `g` of its queue has activated with a count above 0 and left `rest` waiting: the slot filled
as resolved, LOW and LIMIT where they are due, the state of R47, and the first step begun where it may (R42, R47, R49). -/
def Axis.activated (table : Eight Entry) (a : Axis) (g : Segment) (rest : List Segment) (r : Resolved) : Axis :=
  Axis.beginStep table
    { a with
      waiting := rest
      slot := some ⟨g, r.direction, r.count, r.count, r.clipped⟩
      truncReported := false
      positionValid := a.positionValid && !g.isHome
      posts :=
        a.posts ++ (if rest.length = a.config.lowThreshold.val then [⟨.low, 0⟩] else []) ++
          (if r.clipped then [⟨.limit, 0⟩] else [])
      state := if g.gated then .armed else if a.pauseFlag || a.haltSeen then .held else .running }

/-- The notice of a completion: DONE with the segment's tag, if its notify is yes (R50). -/
def Segment.donePost (g : Segment) : List Posting := if g.notify then [⟨.done, g.tag⟩] else []

/-- The LOW notice of an activation that leaves `rest` waiting, where it is due (R49). -/
def Axis.lowPost (a : Axis) (rest : List Segment) : List Posting :=
  if rest.length = a.config.lowThreshold.val then [⟨.low, 0⟩] else []

/-- The axis `a`, whose slot is empty, once it has gone on to the segments that wait, and the segments that have left it on the
way, oldest first: with none waiting it is IDLE and posts IDLE (R12); a GOTO without a known position leaves, and the axis is
FAULTED with the rest waiting (R44); a segment with a count of 0 completes and leaves, and the next one follows (R48, R50); any
other activates (R42, R47). -/
def Axis.goesOn (table : Eight Entry) : List Segment → Axis → Axis × List Segment
  | [], a => ({ a with waiting := [], state := .idle, faultKind := none, posts := a.posts ++ [⟨.idle, 0⟩] }, [])
  | g :: rest, a =>
    match a.resolve g.job with
    | none =>
      ({ a with
        waiting := rest, truncReported := false, dwellMark := false, state := .faulted
        faultKind := some .noReference, posts := a.posts ++ a.lowPost rest ++ [⟨.fault, 0⟩] }, [g])
    | some r =>
      if r.count = 0 ∧ g.isDwell = false then
        let next := Axis.goesOn table rest
          { a with
            waiting := rest, truncReported := false, dwellMark := false
            position := if g.isHome then a.config.homePosition else a.position
            positionValid := a.positionValid || g.isHome
            posts := a.posts ++ a.lowPost rest ++ (if r.clipped then [⟨.limit, 0⟩] else []) ++ g.donePost }
        (next.1, g :: next.2)
      else (a.activated table g rest r, [])

/-- The axis `a`, which has entered IDLE, once a segment that waits has activated in the same event, and the segments that have
left it on the way (R12). -/
def Axis.wakes (table : Eight Entry) (a : Axis) : Axis × List Segment :=
  if a.waiting = [] then (a, []) else a.goesOn table a.waiting

/-- The axis `a` once a period that expires in the event it has just made is taken, where one does: a step begins where it may
(R58, R59, R64). -/
def Axis.expiresIf (table : Eight Entry) (together : Prop) [Decidable together] (a : Axis) : Axis :=
  if together then Axis.beginStep table { a with periodExpired := true } else a

/-- The PARK segment that a configuration makes (R46, R109). -/
def AxisConfig.park (c : AxisConfig) : Segment := ⟨.park c.parkPosition c.parkProfile, 0xFF, c.parkRate, false, true⟩

/-- The axis `a`, IDLE with nothing in its slot and its position known, once a PARK segment has been placed, and the segments
that have left it: an axis at park_position completes it at once, with DONE, and goes on to IDLE; any other is RUNNING or HELD
with it (R46, R48, R109). -/
def Axis.parks (table : Eight Entry) (a : Axis) : Axis × List Segment :=
  let count := ((a.config.parkPosition.toNat : Int) - (a.position.toNat : Int)).natAbs
  if count = 0 then
    let next := Axis.goesOn table a.waiting
      { a with truncReported := false, dwellMark := false, posts := a.posts ++ [⟨.done, 0xFF⟩] }
    (next.1, a.config.park :: next.2)
  else
    (Axis.beginStep table
      { a with
        slot := some ⟨a.config.park,
          if a.position.toNat < a.config.parkPosition.toNat then some .forward else some .reverse, count, count, false⟩
        truncReported := false
        state := if a.pauseFlag || a.haltSeen then .held else .running }, [])

/-- What a STOP or an action of the claim unit asks of an axis whose lapse_action is given: a STOP-type or a PARK-type end
of its work; none where it changes nothing, and for everything else that the claim unit sends (R5, R77). -/
def AxisMsg.endsWork (lapse : LapseAction) (m : AxisMsg) : Option Stopping :=
  match m with
  | .request _ .stop => some .stop
  | .release _ park => some (if park then .park else .stop)
  | .seize _ => some .stop
  | .lapse => if lapse = .finish then none else some (if lapse = .park then .park else .stop)
  | .detach _ => if lapse = .finish then none else some (if lapse = .park then .park else .stop)
  | _ => none

/-- `s` with the reply or the answer sent that a STOP or an action of the claim unit at axis `n` is due: the reply of STOP,
RELEASE or SEIZE, the answer to a DETACH, nothing for a lapse (R76, R127, R130, R131, R132). -/
def State.answered (s : State) (n : AxisId) (m : AxisMsg) : State :=
  match m with
  | .request p _ => s.reply p ⟨.ok, []⟩
  | .release p _ => s.reply p ⟨.ok, []⟩
  | .seize p => s.reply p ⟨.ok, [ownerCode (some p.other)]⟩
  | .detach p => s.setPort p { s.port p with detachAnswers := (s.port p).detachAnswers.set n true }
  | _ => s

end Sys2Proof.Machine
end

