-- ==== Sys2Proof/WellFormed.lean ====
section
/-! DEFINITION. Well-formed commands and well-formed received requests.
A command's operands are a port, an axis number 0 to 7, a level, a byte or the name of a block, and their types hold
nothing else, so every command is well formed. A received request is raw bytes; here stands what R164 and 10 Table 10-1
fix of its form: a known code, and its number of argument bytes. Argument values are judged by the block that takes the
request, with a status of its own (R164, R177), so they are no matter of form. -/

namespace Sys2Proof

/-- Every command is well formed: its operand types admit no other value. -/
def Instr.wellFormed (_ : Instr) : Bool := true

/-- The bytes of a request before its check byte are well formed: a request code and as many argument bytes as it
fixes (R164). -/
def requestWellFormed : List Byte → Bool
  | [] => false
  | code :: args => argCount code == some args.length

end Sys2Proof
end

