-- ==== Sys2Proof/Certificates/Slice0/Obligations.lean ====
section
/-! DEFINITION. The statements for the provers. Each docstring names the rules of spec/ that its statement formalises; a
clause that rests on a choice of the model names the log entry of notes/assumptions/. -/

section

open Sys2Proof Sys2Proof.Machine

/-! ## Requests as bytes (9 R163, R164, 10 R176, Table 10-1) -/

/-- Requests and their bytes agree: every request, with every argument at every value, is read back from the bytes that spell
it; a request that the port unit accepts spells the bytes it was read from; and one changed byte, wherever it stands, changes
the check byte (R163, R164, R176, 10 Table 10-1). -/
def Obligations.RequestsAndTheirBytesAgree : Prop :=
  (∀ r : Request, parseRequest (encodeRequest r) = some r) ∧
  (∀ (bytes : List Byte) (r : Request), parseRequest bytes = some r → encodeRequest r = bytes) ∧
  ∀ (before after : List Byte) (b c : Byte), b ≠ c → crc8 (before ++ b :: after) ≠ crc8 (before ++ c :: after)

/-! ## Steps and commands -/

/-- A step takes the command at the front of the queue and carries it out with the queue's rest. -/
def Obligations.StepRunsTheFrontCommand : Prop :=
  ∀ (s : State) (c : Instr) (rest : List Instr),
    s.pending = c :: rest → step s = exec c { s with pending := rest }

/-- Every command gives a next state, and leaves the commands that wait as they are: the PX8 never stops. That a command whose
event is not there gives one too is the model's choice (log entry 3). -/
def Obligations.EveryCommandGoesOn : Prop :=
  ∀ (c : Instr) (s : State), ∃ t, exec c s = .next t ∧ t.pending = s.pending

/-- A command whose event is not there changes nothing, but that a port unit takes its own request in hand before any other
event of its own (log entries 3 and 7). -/
def Obligations.ACommandWithoutItsEventChangesNothing : Prop :=
  ∀ (c : Instr) (s : State), s.awaits c = false →
    exec c s = .next (match portUnitOf c with
      | some p => s.settle p
      | none => s)

/-- With no command waiting a step passes one du: each period timer and each lease counts down by one and each pulse that its
driver has not cut runs on, and nothing else changes but the times of STARTING and of the HALT filter (R57, R60, R123; log
entry 4). -/
def Obligations.AnIdleStepPassesOneDriveUnit : Prop :=
  ∀ s : State, s.pending = [] →
    ∃ t, step s = .next t ∧
      (∀ n, t.axis n =
        { s.axis n with
          periodLeft := (s.axis n).periodLeft - 1
          pulse :=
            if (s.axis n).tripped then (s.axis n).pulse
            else (s.axis n).pulse.map fun pl => { pl with elapsed := min pl.cutAt (pl.elapsed + 1) } }) ∧
      (∀ n, t.entry n = { s.entry n with leaseLeft := (s.entry n).leaseLeft - 1 }) ∧
      t.ports = s.ports ∧ t.store = s.store ∧ t.notice = s.notice ∧ t.pending = s.pending ∧
      t.claim = { s.claim with entries := t.claim.entries } ∧
      t.start = { s.start with startLeft := s.start.startLeft - 1, haltMeasure := t.start.haltMeasure } ∧
      t.start.haltMeasure =
        if s.start.phase = .inReset ∨ s.start.haltPin = s.start.haltFiltered then s.start.haltMeasure
        else min 2 (s.start.haltMeasure + 1)

/-! ## Cold start and HALT (11 R180 to R182, R186, 3 R67, R69) -/

/-- RST low at any moment: every block is at its cold values and no output is driven; the levels of the input pins and the
strap latch stay (log entry 2). The release of RST latches SUPV and enters STARTING with every block cold; the end of STARTING
asserts READY and enters SERVING (R180, R182). -/
def Obligations.AColdStartClearsLatchesAndServes : Prop :=
  (∀ s : State, ∃ t, exec .rstLow s = .next t ∧
    t = { State.reset with
          pending := s.pending
          start :=
            { State.reset.start with
              supvPin := s.start.supvPin, supvLatch := s.start.supvLatch, haltPin := s.start.haltPin }
          ports := s.ports.map fun _ u => { PortUnit.cold false with sel := u.sel } } ∧
    t.readyPin = false ∧ (∀ n c, t.coilPin n c = false) ∧
    ∀ p, t.attentionPin p = false ∧ t.misoPin p = .highImpedance) ∧
  ∀ (s : State) (supv : Bool),
    (s.start.phase = .inReset →
      exec (.rstRelease supv) s = .next
        { State.reset with
          pending := s.pending
          start :=
            { State.reset.start with
              phase := .starting, startLeft := 4, supvPin := supv, supvLatch := supv, haltPin := s.start.haltPin }
          ports := s.ports.map fun _ u => { PortUnit.cold false with sel := u.sel } }) ∧
    (s.start.phase = .starting →
      exec .startingEnd s = .next { s with start := { s.start with phase := .serving, startLeft := 0 } } ∧
        State.readyPin { s with start := { s.start with phase := .serving, startLeft := 0 } } = true)

/-- A new level of the HALT pin restarts the measure; once the pin has differed from the filtered level for 2 du the level
takes it, and the change goes to every axis controller and both port units, before the pin's next level if it is still to be
made (R186; log entries 4 and 5). An axis controller takes the oldest change of the filtered level into halt_seen. With a hold
cause left, a RUNNING axis between pulses enters HELD at once and no other changes its state; with none left, a HELD axis
enters RUNNING and begins its next step if it may (R67, R69). A port unit takes the level it reports (R186). -/
def Obligations.HaltIsFilteredAndHolds : Prop :=
  (∀ s : State,
    (∀ level, s.start.haltPin ≠ level →
      s.start.phase = .inReset ∨ s.start.haltPin = s.start.haltFiltered ∨ s.start.haltMeasure < 2 →
      exec (.haltPin level) s = .next { s with start := { s.start with haltPin := level, haltMeasure := 0 } }) ∧
    (∀ level, s.start.haltPin ≠ level → s.start.phase ≠ .inReset → s.start.haltPin ≠ s.start.haltFiltered →
      2 ≤ s.start.haltMeasure →
      exec (.haltPin level) s = .next
        { s with
          start := { s.start with haltFiltered := s.start.haltPin, haltPin := level, haltMeasure := 0 }
          axes := s.axes.map fun _ a => { a with haltIn := a.haltIn ++ [s.start.haltPin] }
          ports := s.ports.map fun _ v => { v with haltIn := v.haltIn ++ [s.start.haltPin] } }) ∧
    (s.start.phase ≠ .inReset → s.start.haltPin ≠ s.start.haltFiltered →
      ∃ u, u = s.advance (2 - s.start.haltMeasure) ∧
        exec .filteredHaltChange s = .next
          { u with
            start := { u.start with haltFiltered := s.start.haltPin, haltMeasure := 0 }
            axes := u.axes.map fun _ a => { a with haltIn := a.haltIn ++ [s.start.haltPin] }
            ports := u.ports.map fun _ v => { v with haltIn := v.haltIn ++ [s.start.haltPin] } })) ∧
  (∀ (s : State) (n : AxisId) (level : Bool) (rest : List Bool) (a : Axis),
    (s.axis n).free = true → (s.axis n).haltIn = level :: rest →
    a = { s.axis n with haltSeen := level, haltIn := rest } →
    ((a.pauseFlag || level) = true → a.state = .running → a.pulse = none →
      exec (.axisHaltChange n) s = .next (s.setAxis n { a with state := .held })) ∧
    ((a.pauseFlag || level) = true → a.state ≠ .running ∨ a.pulse ≠ none →
      exec (.axisHaltChange n) s = .next (s.setAxis n a)) ∧
    ((a.pauseFlag || level) = false → a.state = .held →
      exec (.axisHaltChange n) s = .next (s.setAxis n (Axis.beginStep s.table { a with state := .running }))) ∧
    ((a.pauseFlag || level) = false → a.state ≠ .held → exec (.axisHaltChange n) s = .next (s.setAxis n a))) ∧
  ∀ (s t : State) (p : Port) (level : Bool) (rest : List Bool),
    s.settle p = t → (t.port p).haltIn = level :: rest →
    exec (.portHaltLevel p) s = .next (t.setPort p { t.port p with haltLevel := level, haltIn := rest })

/-! ## Frames (9 R158 to R175, 11 R187) -/

/-- The events of a port unit reach no record of another block: they change the port units and, by handing a request on, an
inbox (R165, Table 7-2). -/
def Obligations.PortEventsReachOnlyPortsAndInboxes : Prop :=
  ∀ (c : Instr) (s t : State),
    (portUnitOf c).isSome = true ∨ (∃ p, c = .readDevice p ∨ c = .readPortStatus p ∨ c = .clearPortErrors p) →
    exec c s = .next t → s.SameButPorts t

/-- SEL asserted: with READY asserted a frame begins, with the attention summary captured and last_frame_good on MISO; before
READY it begins none and MISO stays as it is (R159, R151, R181; log entry 21). -/
def Obligations.SelectBeginsAFrame : Prop :=
  ∀ (s t : State) (p : Port), s.settle p = t → (t.port p).sel = false →
    (t.readyPin = true →
      exec (.frameStart p) s = .next (t.setPort p
        { t.port p with
          sel := true
          miso := .level (t.port p).lastFrameGood
          frame := .command
          inByte := false
          sckLow := false
          bits := []
          outByte := 0
          rx := []
          summary := t.notice.summary p
          waited := false
          out := none
          frameError := none
          held := none
          mine := false })) ∧
    (t.readyPin = false → exec (.frameStart p) s = .next (t.setPort p { t.port p with sel := true }))

/-- What MISO carries in a byte is decided at its first falling edge: the summary, the port status byte at position 1, 00h, the
wait value, the ready marker once the reply is there, the reply, then FFh; a byte past the reply counts EXTRA_BYTES. MISO takes
the most significant bit first and the next one at each falling edge, and each rising edge samples one bit of MOSI. The status
byte has ERR, SUP, HALT and FRESH in bits 0 to 3 (R158, R160, R161, R167, R168, R170, 10 Table 10-3; log entry 9). -/
def Obligations.AByteThatBeginsShowsItsPosition : Prop :=
  ∀ (s t : State) (p : Port) (u : PortUnit) (shows : PortUnit → Byte → State), s.settle p = t → t.port p = u →
    (∀ v b, shows v b = t.setPort p
      { v with inByte := true, sckLow := true, bits := [], outByte := b, miso := .level (b.getLsbD 7) }) →
    (u.inByte = false →
      (u.frame = .command → exec (.frameByte p .falls) s = .next (shows u u.summary)) ∧
      (u.frame = .arguments → u.rx.length = 1 → exec (.frameByte p .falls) s = .next (shows u (t.statusByte p))) ∧
      (u.frame = .arguments → u.rx.length ≠ 1 → exec (.frameByte p .falls) s = .next (shows u 0x00)) ∧
      (u.frame = .waiting → u.waited = false ∨ u.out = none →
        exec (.frameByte p .falls) s = .next (shows { u with waited := true } 0x00)) ∧
      (u.frame = .waiting → u.waited = true → u.out ≠ none →
        exec (.frameByte p .falls) s = .next (shows { u with frame := .replying } 0xA5)) ∧
      (∀ b rest, u.frame = .replying → u.out = some (b :: rest) →
        exec (.frameByte p .falls) s = .next (shows { u with out := some rest } b)) ∧
      (u.frame = .draining → u.frameError = none →
        exec (.frameByte p .falls) s = .next (shows
          { u with
            frameError := some .extraBytes
            firstError := if u.errorCounter = 0 then some .extraBytes else u.firstError
            errorCounter := min 255 (u.errorCounter + 1) } 0xFF)) ∧
      (u.frame = .draining → u.frameError ≠ none → exec (.frameByte p .falls) s = .next (shows u 0xFF)) ∧
      (u.frame = .rejecting → exec (.frameByte p .falls) s = .next (shows u 0xFF))) ∧
    (u.frame ≠ .idle → u.inByte = true →
      (u.sckLow = false → u.bits.length < 8 →
        exec (.frameByte p .falls) s = .next (t.setPort p
          { u with sckLow := true, miso := .level (u.outByte.getLsbD (7 - u.bits.length)) })) ∧
      (∀ mosi, u.sckLow = true → u.bits.length < 7 →
        exec (.frameByte p (.rises mosi)) s =
          .next (t.setPort p { u with sckLow := false, bits := u.bits ++ [mosi] }))) ∧
    ((t.statusByte p).getLsbD 0 = true ↔ 0 < u.errorCounter) ∧
    ((t.statusByte p).getLsbD 1 = true ↔ p = .b ∧ t.start.supvLatch = true) ∧
    ((t.statusByte p).getLsbD 2 = true ↔ u.haltLevel = true) ∧
    ((t.statusByte p).getLsbD 3 = true ↔ u.fresh = true) ∧
    ∀ i, 4 ≤ i → (t.statusByte p).getLsbD i = false

/-- The eighth rising edge completes a byte, whose bits were sampled most significant first. A complete byte 0 that is a
request code opens ARGUMENTS, any other counts UNKNOWN_CODE and the frame rejects; bytes before the check position are kept in
order; the last reply byte opens DRAINING; other bytes are disregarded (R158, R160, R164, R168, R170; log entry 9). -/
def Obligations.ACompleteByteAdvancesTheFrame : Prop :=
  ∀ (s t : State) (p : Port) (u v : PortUnit) (b : Byte) (mosi : Bool), s.settle p = t → t.port p = u →
    u.inByte = true → u.sckLow = true → u.bits.length = 7 →
    (∀ i, i < 8 → b.getLsbD (7 - i) = (u.bits ++ [mosi]).getD i false) →
    v = { u with inByte := false, sckLow := false, bits := [] } →
    (u.frame = .command → argCount b ≠ none →
      exec (.frameByte p (.rises mosi)) s = .next (t.setPort p { v with frame := .arguments, rx := [b] })) ∧
    (u.frame = .command → argCount b = none → u.frameError = none →
      exec (.frameByte p (.rises mosi)) s = .next (t.setPort p
        { v with
          frame := .rejecting
          frameError := some .unknownCode
          firstError := if u.errorCounter = 0 then some .unknownCode else u.firstError
          errorCounter := min 255 (u.errorCounter + 1) })) ∧
    (u.frame = .arguments → requestWellFormed u.rx = false →
      exec (.frameByte p (.rises mosi)) s = .next (t.setPort p { v with rx := u.rx ++ [b] })) ∧
    (u.frame = .replying → u.out = some [] →
      exec (.frameByte p (.rises mosi)) s = .next (t.setPort p { v with frame := .draining })) ∧
    (u.frame = .waiting ∨ (u.frame = .replying ∧ u.out ≠ some []) ∨ u.frame = .draining ∨ u.frame = .rejecting →
      exec (.frameByte p (.rises mosi)) s = .next (t.setPort p v))

/-- The check byte: with the CRC-8 of the request it lets the request pass, which is handed on at once unless a previous
request is in hand or a restart is in progress, and is else held; with any other value CHECK_FAILED is counted and the request
has no effect (R163 to R166, R170; log entry 9). -/
def Obligations.TheCheckByteLetsTheRequestPass : Prop :=
  ∀ (s t : State) (p : Port) (u v : PortUnit) (b : Byte) (mosi : Bool) (r : Request),
    s.settle p = t → t.port p = u → u.inByte = true → u.sckLow = true → u.bits.length = 7 →
    (∀ i, i < 8 → b.getLsbD (7 - i) = (u.bits ++ [mosi]).getD i false) → u.frame = .arguments →
    u.rx = encodeRequest r → v = { u with inByte := false, sckLow := false, bits := [] } →
    (b = crc8 u.rx → u.inHand = none → t.start.phase.restarting = false →
      exec (.frameByte p (.rises mosi)) s = .next
        ((t.setPort p { v with frame := .waiting, held := none, inHand := some r, mine := true }).route p r)) ∧
    (b = crc8 u.rx → u.inHand ≠ none ∨ t.start.phase.restarting = true →
      exec (.frameByte p (.rises mosi)) s = .next (t.setPort p { v with frame := .waiting, held := some r })) ∧
    (b ≠ crc8 u.rx → u.frameError = none →
      exec (.frameByte p (.rises mosi)) s = .next (t.setPort p
        { v with
          frame := .rejecting
          frameError := some .checkFailed
          firstError := if u.errorCounter = 0 then some .checkFailed else u.firstError
          errorCounter := min 255 (u.errorCounter + 1) }))

/-- SEL released ends the frame: the first error that a release makes arise is counted, a held request is dropped, a reply not
returned is lost, and last_frame_good says whether the frame was good; an empty frame leaves it (R159, R160, R166, R169, R170,
R172). -/
def Obligations.ReleaseEndsAFrame : Prop :=
  ∀ (s t : State) (p : Port) (u v : PortUnit) (e : Option FrameError),
    s.settle p = t → t.port p = u → u.sel = true →
    e = (match u.frame, u.inByte with
      | .idle, _ => none
      | .command, true => some .partialByte
      | .command, false => none
      | .arguments, true => some .partialByte
      | .arguments, false => some .shortFrame
      | .waiting, true => some .partialByte
      | .waiting, false => if u.held = none then some .replyCut else some .shortFrame
      | .replying, true => some .partialByte
      | .replying, false => some .replyCut
      | .draining, _ => none
      | .rejecting, _ => none) →
    v = { u with
          sel := false, miso := .highImpedance, frame := .idle, inByte := false, sckLow := false, bits := []
          outByte := 0, rx := [], waited := false, out := none, frameError := none, held := none, mine := false } →
    (u.frame = .idle ∨ (u.frame = .command ∧ u.inByte = false) → exec (.frameEnd p) s = .next (t.setPort p v)) ∧
    (u.frame ≠ .idle → u.frame ≠ .command ∨ u.inByte = true → u.frameError ≠ none →
      exec (.frameEnd p) s = .next (t.setPort p { v with lastFrameGood := false })) ∧
    (u.frame ≠ .idle → u.frame ≠ .command ∨ u.inByte = true → u.frameError = none → e = none →
      exec (.frameEnd p) s = .next (t.setPort p { v with lastFrameGood := true })) ∧
    (∀ x, u.frame ≠ .idle → u.frame ≠ .command ∨ u.inByte = true → u.frameError = none → e = some x →
      exec (.frameEnd p) s = .next (t.setPort p
        { v with
          lastFrameGood := false
          firstError := if u.errorCounter = 0 then some x else u.firstError
          errorCounter := min 255 (u.errorCounter + 1) }))

/-- A reply that reaches the port ends the request in hand; it is returned in the frame of its request, or discarded if that
frame has ended; and a request held for it is handed on in the same event, unless a restart is in progress (R165, R166, R168,
R169). -/
def Obligations.AReplyEndsTheRequestInHand : Prop :=
  ∀ (s t : State) (p : Port) (u v : PortUnit) (r : Reply),
    s.settle p = t → t.port p = u → u.replyIn = some r →
    v = { u with
          replyIn := none
          inHand := none
          mine := false
          out :=
            if u.mine then some ((r.status.code :: r.data) ++ [crc8 (r.status.code :: r.data)]) else u.out } →
    (u.held = none ∨ t.start.phase.restarting = true → exec (.replyArrival p) s = .next (t.setPort p v)) ∧
    (∀ q, u.held = some q → t.start.phase.restarting = false →
      exec (.replyArrival p) s =
        .next ((t.setPort p { v with held := none, inHand := some q, mine := true }).route p q))

/-- The port unit's own requests: READ_DEVICE reports the identity and the device flags; READ_PORT_STATUS reports the error
record as it stands and clears FRESH; CLEAR_PORT_ERRORS clears the error record and nothing else (R173, R174, R187; no request
is held behind them). Every other event of the port unit finds them taken (log entry 7). -/
def Obligations.APortTakesItsOwnRequests : Prop :=
  ∀ (s : State) (p : Port) (u v : PortUnit), s.port p = u → u.held = none →
    v = { u with inHand := none, mine := false } →
    (u.inHand = some .readDevice →
      exec (.readDevice p) s = .next (s.setPort p
        { v with
          out :=
            if u.mine then
              some (Reply.bytes ⟨.ok, [0x54, 0x38, 0x01, 0x08, 0x04, flagByte s.start.supvLatch u.haltLevel false false]⟩)
            else u.out })) ∧
    (u.inHand = some .readPortStatus →
      exec (.readPortStatus p) s = .next (s.setPort p
        { v with
          fresh := false
          out :=
            if u.mine then some (Reply.bytes ⟨.ok, [BitVec.ofNat 8 u.errorCounter, firstErrorCode u.firstError]⟩)
            else u.out })) ∧
    (u.inHand = some .clearPortErrors →
      exec (.clearPortErrors p) s = .next (s.setPort p
        { v with
          errorCounter := 0
          firstError := none
          out := if u.mine then some (Reply.bytes ⟨.ok, []⟩) else u.out })) ∧
    (u.inHand = some .readDevice → s.settle p = s.takeReadDevice p) ∧
    (u.inHand = some .readPortStatus → s.settle p = s.takeReadPortStatus p) ∧
    (u.inHand = some .clearPortErrors → s.settle p = s.takeClearPortErrors p) ∧
    (u.inHand ≠ some .readDevice → u.inHand ≠ some .readPortStatus → u.inHand ≠ some .clearPortErrors →
      s.settle p = s)

/-- A whole request phase: from a port between frames with READY asserted and no restart in progress, SEL and the edges of SCK
of any request's bytes and its check byte hand exactly that request on, and change nothing else but the port's frame; the
command that takes the request first then finds it (R158 to R166, Table 7-2, R176; log entry 9). -/
def Obligations.AWholeRequestPhaseHandsItsRequestOn : Prop :=
  ∀ (s : State) (p : Port) (r : Request),
    s.readyPin = true → s.start.phase.restarting = false → (s.port p).sel = false → (s.port p).inHand = none →
    ∃ u, execAll (.frameStart p :: byteCommands p (encodeRequest r ++ [crc8 (encodeRequest r)])) s =
        .next ((s.setPort p u).route p r) ∧
      u = { s.port p with
            sel := true
            miso := u.miso
            frame := .waiting
            inByte := false
            sckLow := false
            bits := []
            outByte := u.outByte
            rx := encodeRequest r
            summary := s.notice.summary p
            waited := false
            out := none
            frameError := none
            held := none
            inHand := some r
            mine := true } ∧
      ((∀ n, (s.axis n).busy = .none) → s.start.phase = .serving →
        ((s.setPort p u).route p r).awaits (requestTakenBy p r) = true)

/-! ## RESTART (11 R183, R184, 1 R27, 7 R141, 8 R156) -/

/-- A RESTART that start-up control takes in SERVING is refused to Port A where the latch holds high, and changes nothing; any
other sets restart-in-progress and sends the restart step to the eight axis controllers and the claim unit (R183). -/
def Obligations.ARestartBeginsOrIsRefused : Prop :=
  ∀ (s : State) (p : Port), s.start.phase = .serving → s.start.restartWaiting.get p = true →
    (s.start.supvLatch = true → p = .a →
      exec (.restart p) s = .next (State.reply
        { s with start := { s.start with restartWaiting := s.start.restartWaiting.set p false } } p
        ⟨.notSupervisor, []⟩)) ∧
    (s.start.supvLatch = false ∨ p = .b →
      exec (.restart p) s = .next
        { s with
          start :=
            { s.start with
              phase := .restartStopping
              restartWaiting := s.start.restartWaiting.set p false
              restarter := some p
              quietSeen := Eight.same false
              doneSeen := false }
          claim := { s.claim with restartIn := true }
          axes := s.axes.map fun _ a => { a with restartIn := true } })

/-- An axis controller's restart step by its state, with the gives it holds: the queue and, with no pulse in progress, the
active segment are discarded with their references given back, pause_flag and the fault are cleared, the axis enters IDLE, and
quiet is reported without a notice; a pulse in progress runs to its end in STOPPING first. A request that the controller has
been handed is taken before the step (R27, R33, R34, R91; log entry 20). -/
def Obligations.TheRestartStepQuietsAnAxis : Prop :=
  ∀ (s : State) (n : AxisId) (a b : Axis) (start : StartUp),
    s.axis n = a → a.free = true → a.restartIn = true →
    b = { a with restartIn := false, pauseFlag := false } →
    start = { s.start with quietSent := s.start.quietSent.set n true } →
    ((∃ p m, .request p m ∈ a.fromClaim) ∨ (∃ p, a.reads.get p ≠ none) → exec (.axisRestartStep n) s = .next s) ∧
    ((∀ p m, .request p m ∉ a.fromClaim) → (∀ p, a.reads.get p = none) →
    (a.state = .off →
      exec (.axisRestartStep n) s = .next { s.setAxis n { a with restartIn := false } with start := start }) ∧
    (a.state = .idle → exec (.axisRestartStep n) s = .next { s.setAxis n b with start := start }) ∧
    (a.state = .faulted → a.slot = none →
      execAll (.axisRestartStep n :: gives n a.waiting) s = .next
        { (s.withGivenBack a.waiting).setAxis n { b with waiting := [], state := .idle, faultKind := none } with
          start := start }) ∧
    (∀ act, a.state = .running ∨ a.state = .held ∨ a.state = .armed → a.pulse = none → a.slot = some act →
      execAll (.axisRestartStep n :: gives n (a.waiting ++ [act.seg])) s = .next
        { (s.withGivenBack (a.waiting ++ [act.seg])).setAxis n
            { b with
              waiting := [], slot := none, truncReported := false, dwellMark := false, state := .idle
              faultKind := none } with
          start := start }) ∧
    (∀ pl, a.state = .running ∨ a.state = .stopping → a.pulse = some pl →
      execAll (.axisRestartStep n :: gives n a.waiting) s = .next
        ((s.withGivenBack a.waiting).setAxis n
          { b with waiting := [], state := .stopping, pulse := some { pl with endAction := .finish .restart } })))

/-- The claim unit's restart step clears every owned entry and reports each change in the order of the axes; it reports done in
the step where it made no report, and else with the last answer (R141, R142, R183). -/
def Obligations.TheClaimUnitsRestartStepClearsItsTable : Prop :=
  (∀ (s : State) (owned : List AxisId),
    s.claim.restartIn = true → owned = (allEight.filter fun n => (s.entry n).owner.isSome) →
    exec .claimRestartStep s = .next
      { s with
        claim :=
          { s.claim with
            entries := s.claim.entries.map fun _ e => if e.owner.isSome then ⟨none, 0, 0⟩ else e
            toNotice := s.claim.toNotice ++ owned.map fun n => .report n none true
            restartIn := false
            awaiting := owned.length }
        start := if owned = [] then { s.start with doneSent := true } else s.start }) ∧
  ∀ s : State, 0 < s.claim.answersIn → 0 < s.claim.awaiting →
    exec .reportAnswer s = .next
      { s with
        claim := { s.claim with answersIn := s.claim.answersIn - 1, awaiting := s.claim.awaiting - 1 }
        start := if s.claim.awaiting = 1 then { s.start with doneSent := true } else s.start }

/-- Quiet is reached with the ninth report, in whatever order they come: start-up control then enters RESTART_CLEARING and
sends the notice unit its clear. The clear empties all sixteen records and keeps the masks and the routing copy; it is taken
once no posting waits, so that it removes those made before it (R156, R184, R185; that it waits for them all: log entry 22). -/
def Obligations.NineReportsBringTheClear : Prop :=
  (∀ (s : State) (src : QuietSource) (u : StartUp),
    (match src with
      | .axis n => s.start.quietSent.get n = true ∧ u = { s.start with
          quietSent := s.start.quietSent.set n false, quietSeen := s.start.quietSeen.set n true }
      | .claimUnit => s.start.doneSent = true ∧ u = { s.start with doneSent := false, doneSeen := true }) →
    (s.start.phase = .restartStopping → u.doneSeen = true → (∀ n, u.quietSeen.get n = true) →
      exec (.quietReport src) s = .next
        { s with start := { u with phase := .restartClearing }, notice := { s.notice with clearIn := true } }) ∧
    (u.doneSeen = false ∨ (∃ n, u.quietSeen.get n = false) →
      exec (.quietReport src) s = .next { s with start := u })) ∧
  ∀ s : State, s.notice.clearIn = true →
    ((∀ n, (s.axis n).posts = []) → (∀ k n p, NoticeMsg.posting k n p ∉ s.claim.toNotice) →
      ∃ t, exec .restartClear s = .next t ∧
        (∀ p n, t.notice.record p n = ⟨0, 0, 0⟩) ∧
        t = { s with
              notice := { s.notice with records := t.notice.records, clearIn := false }
              start := { s.start with clearAnswered := true } }) ∧
    ((∃ n, (s.axis n).posts ≠ []) ∨ (∃ k n p, NoticeMsg.posting k n p ∈ s.claim.toNotice) →
      exec .restartClear s = .next s)

/-- With the clear's answer both port units clear their error records and set FRESH, the RESTART reply is given, SERVING is
entered, and each held request is handed on but behind a previous request still in hand, such as the RESTART itself, whose reply
lets it go (R162, R166, R171, R175, R184); frames and last_frame_good are kept. -/
def Obligations.ARestartEndsWithClearPorts : Prop :=
  ∀ (s u : State) (p : Port) (on : Port → State → State),
    s.start.clearAnswered = true → s.start.phase = .restartClearing → s.start.restarter = some p →
    s.settle .a = s → s.settle .b = s →
    u = { s with
          ports := s.ports.map fun q v =>
            { v with
              errorCounter := 0, firstError := none, fresh := true
              replyIn := if q = p then some ⟨.ok, []⟩ else v.replyIn }
          start := { s.start with phase := .serving, restarter := none, clearAnswered := false } } →
    (∀ q v,
      ((s.port q).held = none ∨ (s.port q).inHand ≠ none → on q v = v) ∧
      ∀ r, (s.port q).held = some r → (s.port q).inHand = none →
        on q v = (v.setPort q { v.port q with held := none, inHand := some r, mine := true }).route q r) →
    exec .restartEnd s = .next (on .b (on .a u))

/-! ## Claims and leases (7 R122 to R136, 6 R116 to R118) -/

/-- CLAIM: granted on an unowned axis with the owner change reported, renewed to its owner without a report, refused to the
other port and for an axis number of 08h or above; the lease given runs for 40 du for each lease unit (R123, R126). -/
def Obligations.AClaimIsGrantedRenewedOrRefused : Prop :=
  ∀ (s : State) (p : Port) (axis lease : Byte), s.claim.inbox.get p = some (.claim axis lease) →
    (8 ≤ axis.toNat → exec (.claim p) s = .next ((s.claimTaken p).reply p ⟨.badArgument, []⟩)) ∧
    ∀ n : AxisId, axis.toNat = n.val →
      ((s.entry n).owner = none →
        exec (.claim p) s = .next
          ((((s.claimTaken p).setEntry n ⟨some p, lease, lease.toNat * 40⟩).sendNotice
            [.report n (some p) false]).reply p ⟨.ok, []⟩)) ∧
      ((s.entry n).owner = some p →
        exec (.claim p) s = .next
          (((s.claimTaken p).setEntry n ⟨some p, lease, lease.toNat * 40⟩).reply p ⟨.ok, []⟩)) ∧
      ((s.entry n).owner = some p.other →
        exec (.claim p) s = .next ((s.claimTaken p).reply p ⟨.heldElsewhere, []⟩))

/-- SEIZE: its refusals, and what it does by the owner it finds; a transfer reports the change, posts LOST to the former owner
and, without keep_motion, passes the axis a seize action that gives the reply (R129, R130, R134). -/
def Obligations.ASeizeTakesTheAxisForTheSupervisor : Prop :=
  ∀ (s : State) (p : Port) (axis lease keep : Byte), s.claim.inbox.get p = some (.seize axis lease keep) →
    (8 ≤ axis.toNat ∨ 2 ≤ keep.toNat → exec (.seize p) s = .next ((s.claimTaken p).reply p ⟨.badArgument, []⟩)) ∧
    ∀ (n : AxisId) (t : State), axis.toNat = n.val → keep.toNat < 2 →
      t = (s.claimTaken p).setEntry n ⟨some p, lease, lease.toNat * 40⟩ →
      (p = .a ∨ s.start.supvLatch = false →
        exec (.seize p) s = .next ((s.claimTaken p).reply p ⟨.notSupervisor, []⟩)) ∧
      (p = .b → s.start.supvLatch = true → (s.entry n).owner = none →
        exec (.seize p) s = .next ((t.sendNotice [.report n (some p) false]).reply p ⟨.ok, [0x00]⟩)) ∧
      (p = .b → s.start.supvLatch = true → (s.entry n).owner = some .b →
        exec (.seize p) s = .next (t.reply p ⟨.ok, [0x02]⟩)) ∧
      (p = .b → s.start.supvLatch = true → (s.entry n).owner = some .a → keep.toNat = 1 →
        exec (.seize p) s = .next
          ((t.sendNotice [.report n (some p) false, .posting .lost n .a]).reply p ⟨.ok, [0x01]⟩)) ∧
      (p = .b → s.start.supvLatch = true → (s.entry n).owner = some .a → keep.toNat = 0 →
        exec (.seize p) s = .next
          ((t.sendNotice [.report n (some p) false, .posting .lost n .a]).sendAxis n (.seize p)))

/-- AUTHORISATION of the eleven requests: refused for an axis number of 08h or above, then to a port that is not the owner,
with nothing renewed; else the lease is renewed and the request passed on behind all that was sent before (R14, R123, R124,
R125). KEEP renews the leases of the named axes that the requester owns and answers with their mask (R128). -/
def Obligations.OnlyTheOwnerPassesAndRenews : Prop :=
  (∀ (s : State) (p : Port) (axis : Byte) (m : Mutation), s.claim.inbox.get p = some (.mutate axis m) →
    (8 ≤ axis.toNat → exec (.authorisation p) s = .next ((s.claimTaken p).reply p ⟨.badArgument, []⟩)) ∧
    ∀ n : AxisId, axis.toNat = n.val →
      ((s.entry n).owner ≠ some p →
        exec (.authorisation p) s = .next ((s.claimTaken p).reply p ⟨.notOwner, []⟩)) ∧
      ((s.entry n).owner = some p →
        exec (.authorisation p) s = .next
          (((s.claimTaken p).setEntry n
            { s.entry n with leaseLeft := (s.entry n).leasePeriod.toNat * 40 }).sendAxis n (.request p m)))) ∧
  ∀ (s : State) (p : Port) (mask : Byte), s.claim.inbox.get p = some (.keep mask) →
    ∃ (t : State) (renewed : Byte), exec (.keep p) s = .next (t.reply p ⟨.ok, [renewed]⟩) ∧
      (∀ n : AxisId, renewed.getLsbD n.val = true ↔ mask.getLsbD n.val = true ∧ (s.entry n).owner = some p) ∧
      (∀ n : AxisId, t.entry n =
        if renewed.getLsbD n.val then { s.entry n with leaseLeft := (s.entry n).leasePeriod.toNat * 40 }
        else s.entry n) ∧
      t = { s.claimTaken p with claim := { (s.claimTaken p).claim with entries := t.claim.entries } }

/-- The three ways a claim ends besides SEIZE and RESTART. RELEASE: its checks, then owner NONE with the change reported and,
for STOP or PARK, a release action that gives the reply (R127). A lease expiry: owner NONE, the change, LAPSED to the former
owner and a lapse action, in that order, once the lease's time has passed; an axis whose lease_period is 0 never lapses (R123,
R132; log entry 4). -/
def Obligations.AClaimEndsByReleaseOrExpiry : Prop :=
  (∀ (s : State) (p : Port) (axis action : Byte), s.claim.inbox.get p = some (.release axis action) →
    (8 ≤ axis.toNat ∨ 3 ≤ action.toNat →
      exec (.release p) s = .next ((s.claimTaken p).reply p ⟨.badArgument, []⟩)) ∧
    ∀ (n : AxisId) (t : State), axis.toNat = n.val → action.toNat < 3 →
      t = ((s.claimTaken p).setEntry n ⟨none, 0, 0⟩).sendNotice [.report n none false] →
      ((s.entry n).owner ≠ some p → exec (.release p) s = .next ((s.claimTaken p).reply p ⟨.notOwner, []⟩)) ∧
      ((s.entry n).owner = some p → action.toNat = 0 → exec (.release p) s = .next (t.reply p ⟨.ok, []⟩)) ∧
      ((s.entry n).owner = some p → action.toNat = 1 →
        exec (.release p) s = .next (t.sendAxis n (.release p false))) ∧
      ((s.entry n).owner = some p → action.toNat = 2 →
        exec (.release p) s = .next (t.sendAxis n (.release p true)))) ∧
  ∀ (s : State) (n : AxisId) (p : Port), (s.entry n).owner = some p →
    ((s.entry n).leasePeriod ≠ 0 →
      exec (.leaseExpiry n) s = .next
        ((((s.advance (s.entry n).leaseLeft).setEntry n ⟨none, 0, 0⟩).sendNotice
          [.report n none false, .posting .lapsed n p]).sendAxis n .lapse)) ∧
    ((s.entry n).leasePeriod = 0 → exec (.leaseExpiry n) s = .next s)

/-- DETACH ends every claim of the requester with a report and a detach action for each, in the order of the axes, and then
sends the clear; the port unit is handed detached_mask and its reply is ready when it holds every answer (R131, R142; the
last answer is the reply's arrival: log entry 11). -/
def Obligations.ADetachEndsEveryClaimOfItsPort : Prop :=
  (∀ (s : State) (p : Port) (mask : Byte), s.claim.inbox.get p = some .detach →
    (∀ n : AxisId, mask.getLsbD n.val = true ↔ (s.entry n).owner = some p) →
    ∃ t : State, exec (.detach p) s = .next (t.setPort p { s.port p with collect := .detach mask mask true }) ∧
      (∀ n : AxisId, t.entry n = if mask.getLsbD n.val then ⟨none, 0, 0⟩ else s.entry n) ∧
      (∀ n : AxisId, t.axis n =
        if mask.getLsbD n.val then { s.axis n with fromClaim := (s.axis n).fromClaim ++ [.detach p] }
        else s.axis n) ∧
      t = { s.claimTaken p with
            claim :=
              { (s.claimTaken p).claim with
                entries := t.claim.entries
                toNotice :=
                  s.claim.toNotice ++
                    ((allEight.filter fun n => mask.getLsbD n.val).map fun n => .report n none false) ++ [.clear p] }
            axes := t.axes }) ∧
  ∀ (s t : State) (p : Port) (mask awaited : Byte) (clearAwaited : Bool),
    s.settle p = t → (t.port p).collect = .detach mask awaited clearAwaited →
    (∀ (n : AxisId) (left : Byte), (t.port p).detachAnswers.get n = true → left = awaited &&& ~~~oneMask n →
      (left ≠ 0 ∨ clearAwaited = true →
        exec (.detachAnswer p (.axis n)) s = .next (t.setPort p
          { t.port p with
            detachAnswers := (t.port p).detachAnswers.set n false, collect := .detach mask left clearAwaited })) ∧
      (left = 0 → clearAwaited = false →
        exec (.detachAnswer p (.axis n)) s = .next (State.arrive (t.setPort p
          { t.port p with
            detachAnswers := (t.port p).detachAnswers.set n false, collect := .none }) p ⟨.ok, [mask]⟩))) ∧
    ((t.port p).clearAnswer = true →
      (awaited ≠ 0 →
        exec (.detachAnswer p .noticeUnit) s = .next (t.setPort p
          { t.port p with clearAnswer := false, collect := .detach mask awaited false })) ∧
      (awaited = 0 →
        exec (.detachAnswer p .noticeUnit) s = .next (State.arrive (t.setPort p
          { t.port p with clearAnswer := false, collect := .none }) p ⟨.ok, [mask]⟩)))

/-- GO: for each named axis that the requester owns the lease is renewed and a start is passed; the reply carries started_mask
and not_started_mask when every answer is in, and at once where no start was passed (R116, R118; log entry 11). -/
def Obligations.AGoStartsTheNamedAxesItsPortOwns : Prop :=
  (∀ (s : State) (p : Port) (mask passed : Byte), s.claim.inbox.get p = some (.go mask) →
    (∀ n : AxisId, passed.getLsbD n.val = true ↔ mask.getLsbD n.val = true ∧ (s.entry n).owner = some p) →
    ∃ t : State,
      (passed ≠ 0 → exec (.go p) s = .next (t.setPort p { s.port p with collect := .go mask 0 passed })) ∧
      (passed = 0 →
        exec (.go p) s = .next (State.arrive (t.setPort p { s.port p with collect := .none }) p ⟨.ok, [0x00, mask]⟩)) ∧
      (∀ n : AxisId, t.entry n =
        if passed.getLsbD n.val then { s.entry n with leaseLeft := (s.entry n).leasePeriod.toNat * 40 }
        else s.entry n) ∧
      (∀ n : AxisId, t.axis n =
        if passed.getLsbD n.val then { s.axis n with fromClaim := (s.axis n).fromClaim ++ [.start p] }
        else s.axis n) ∧
      t = { s.claimTaken p with
            claim := { (s.claimTaken p).claim with entries := t.claim.entries }, axes := t.axes }) ∧
  ∀ (s t : State) (p : Port) (n : AxisId) (named sofar awaited left now : Byte) (started : Bool),
    s.settle p = t → (t.port p).collect = .go named sofar awaited → (t.port p).startAnswers.get n = some started →
    left = awaited &&& ~~~oneMask n → now = (if started then sofar ||| oneMask n else sofar) →
    (left ≠ 0 →
      exec (.startAnswer p n) s = .next (t.setPort p
        { t.port p with startAnswers := (t.port p).startAnswers.set n none, collect := .go named now left })) ∧
    (left = 0 →
      exec (.startAnswer p n) s = .next (State.arrive (t.setPort p
        { t.port p with startAnswers := (t.port p).startAnswers.set n none, collect := .none }) p
        ⟨.ok, [now, named &&& ~~~now]⟩))

/-- READ_AXIS: the controller captures its fields and waits for the claim unit, which answers with the owner and the whole
lease units that remain; the reply carries both. READ_QUEUE: the slot, the number waiting and the waiting segments, oldest
first. Neither changes anything else (R25, R26, R54, R136, R176, R179, 10 Table 10-5). -/
def Obligations.ReadsReportTheAxisAndItsClaim : Prop :=
  ∀ (s : State) (n : AxisId) (p : Port) (a b : Axis),
    s.axis n = a → a.free = true → b = { a with reads := a.reads.set p none } →
    (∀ q, a.reads.get p = some ⟨q, false⟩ →
      exec (if q then .readQueue n p else .readAxis n p) s = .next ((s.setAxis n b).reply p ⟨.badArgument, []⟩)) ∧
    (a.reads.get p = some ⟨true, true⟩ →
      exec (.readQueue n p) s = .next ((s.setAxis n b).reply p
        ⟨.ok,
          (match a.slot with
            | some act =>
              [0x01, act.seg.job.code, act.seg.tag, flagByte act.seg.gated act.clipped false false,
                highByte (BitVec.ofNat 16 act.remaining), lowByte (BitVec.ofNat 16 act.remaining)]
            | none => [0x00, 0x00, 0x00, 0x00, 0x00, 0x00]) ++
          BitVec.ofNat 8 a.waiting.length ::
            a.waiting.flatMap fun g => [g.job.code, g.tag, flagByte g.gated g.notify false false]⟩)) ∧
    (a.reads.get p = some ⟨false, true⟩ →
      exec (.readAxis n p) s = .next (s.setAxis n { b with busy := .claimAsk p a.view none }) ∧
      exec (.claimAsk n) (s.setAxis n { b with busy := .claimAsk p a.view none }) = .next (s.setAxis n
        { b with busy := .claimAsk p a.view (some ((s.entry n).owner,
            BitVec.ofNat 8 (((s.entry n).leaseLeft + 39) / 40))) }) ∧
      ∀ owner left,
        exec (.claimAnswer n) (s.setAxis n { b with busy := .claimAsk p a.view (some (owner, left)) }) = .next
          ((s.setAxis n b).reply p
            ⟨.ok, [a.state.code, flagByte a.positionValid (a.phase == .b) a.pauseFlag false, highByte a.position,
              lowByte a.position, faultCode a.faultKind, ownerCode owner, left, BitVec.ofNat 8 a.waiting.length,
              (match a.slot with
                | some act => act.seg.tag
                | none => 0x00),
              highByte (BitVec.ofNat 16 a.remaining), lowByte (BitVec.ofNat 16 a.remaining)]⟩))

/-! ## Axis requests: service, configuration, position (1 R11, R14 to R24, 5 R101) -/

/-- ENABLE takes an OFF axis to IDLE without a notice, and is refused elsewhere. DISABLE takes an IDLE axis to OFF, and a
FAULTED one once its queue is discarded with the references given back; pause_flag and the fault are cleared and the rest is
kept (R15, R16, R17, R33, R91). -/
def Obligations.EnableAndDisableMoveAnAxisInAndOutOfService : Prop :=
  ∀ (s : State) (n : AxisId) (p : Port) (a b : Axis), s.axis n = a → b = { a with fromClaim := a.fromClaim.tail } →
    (a.offer = some (.request p .enable) →
      (a.state = .off → exec (.enable n) s = .next ((s.setAxis n { b with state := .idle }).reply p ⟨.ok, []⟩)) ∧
      (a.state ≠ .off → exec (.enable n) s = .next ((s.setAxis n b).reply p ⟨.badState, []⟩))) ∧
    (a.offer = some (.request p .disable) →
      (a.state = .off → exec (.disable n) s = .next ((s.setAxis n b).reply p ⟨.axisOff, []⟩)) ∧
      (a.state = .idle → a.slot = none → a.waiting = [] →
        exec (.disable n) s = .next
          ((s.setAxis n { b with state := .off, pauseFlag := false, faultKind := none }).reply p ⟨.ok, []⟩)) ∧
      (a.state = .faulted → a.slot = none →
        execAll (.disable n :: gives n a.waiting) s = .next
          (((s.withGivenBack a.waiting).setAxis n
            { b with waiting := [], state := .off, pauseFlag := false, faultKind := none }).reply p ⟨.ok, []⟩)) ∧
      (a.state ≠ .off → a.state ≠ .idle → a.state ≠ .faulted →
        exec (.disable n) s = .next ((s.setAxis n b).reply p ⟨.badState, []⟩)))

/-- CLEAR_FAULT: refused in OFF and, but for FAULTED, elsewhere. A FAULTED axis enters IDLE with an IDLE notice, and what waits
goes on in the same event, segment by segment, whatever its length: the head activates into the state of R47; a head with a
count of 0 completes at once and the next one follows; a GOTO without a known position leaves and faults the axis again (R12,
R24, R42, R44, R47 to R50). -/
def Obligations.AClearFaultActivatesTheHead : Prop :=
  ∀ (s : State) (n : AxisId) (p : Port) (a b : Axis),
    s.axis n = a → a.offer = some (.request p .clearFault) →
    b = { a with
          fromClaim := a.fromClaim.tail, state := .idle, faultKind := none, posts := a.posts ++ [⟨.idle, 0⟩] } →
    (a.state = .off →
      exec (.clearFault n) s = .next ((s.setAxis n { a with fromClaim := a.fromClaim.tail }).reply p ⟨.axisOff, []⟩)) ∧
    (a.state ≠ .off → a.state ≠ .faulted →
      exec (.clearFault n) s = .next ((s.setAxis n { a with fromClaim := a.fromClaim.tail }).reply p ⟨.badState, []⟩)) ∧
    (a.state = .faulted → a.slot = none →
      (a.waiting = [] → exec (.clearFault n) s = .next ((s.setAxis n b).reply p ⟨.ok, []⟩)) ∧
      (∀ g rest r, a.waiting = g :: rest → a.resolve g.job = some r → r.count ≠ 0 ∨ g.isDwell = true →
        exec (.clearFault n) s = .next ((s.setAxis n (b.activated s.table g rest r)).reply p ⟨.ok, []⟩)) ∧
      ∀ c left, a.waiting ≠ [] → b.goesOn s.table a.waiting = (c, left) →
        execAll (.clearFault n :: gives n left) s = .next (((s.withGivenBack left).setAxis n c).reply p ⟨.ok, []⟩))

/-- The argument bytes of CONFIGURE and QUEUE: which are refused with BAD_ARGUMENT, and what the others say, with code F taking
the axis's default and the disregarded bits of the flags read by nothing (R18, R36, R38, R177, R178, 10 Table 10-2). -/
def Obligations.ArgumentsAreCheckedAndRead : Prop :=
  (∀ c : ConfigureArgs,
    (configOf c = none ↔
      c.hiLimit.toNat < c.loLimit.toNat ∨ c.homeOverdrive.toNat = 0 ∨ 4095 < c.homeOverdrive.toNat ∨
        8 ≤ c.defaultPair.toNat / 16 ∨ 8 ≤ c.defaultPair.toNat % 16 ∨ 8 ≤ c.parkPair.toNat / 16 ∨
        8 ≤ c.parkPair.toNat % 16 ∨ 3 ≤ c.behaviour.toNat / 16 ∨ 4 ≤ c.behaviour.toNat % 16) ∧
    ∀ k, configOf c = some k →
      k = { k with
            loLimit := c.loLimit, hiLimit := c.hiLimit, homePosition := c.homePosition
            homeOverdrive := c.homeOverdrive, parkPosition := c.parkPosition } ∧
      k.defaultProfile.val = c.defaultPair.toNat / 16 ∧ k.defaultRate.val = c.defaultPair.toNat % 16 ∧
      k.parkProfile.val = c.parkPair.toNat / 16 ∧ k.parkRate.val = c.parkPair.toNat % 16 ∧
      k.lowThreshold.val = c.behaviour.toNat % 16 ∧
      (k.lapseAction = .stop ↔ c.behaviour.toNat / 16 = 0) ∧ (k.lapseAction = .park ↔ c.behaviour.toNat / 16 = 1) ∧
      (k.lapseAction = .finish ↔ c.behaviour.toNat / 16 = 2)) ∧
  ∀ (k : AxisConfig) (q : QueueArgs),
    (segmentOf k q = none ↔
      q.kind.toNat = 0 ∨ 5 ≤ q.kind.toNat ∨ (q.kind = 0x01 ∧ (q.value = 0x0000 ∨ q.value = 0x8000)) ∨
        (q.kind = 0x04 ∧ q.value = 0x0000) ∨ (8 ≤ q.profileRate.toNat / 16 ∧ q.profileRate.toNat / 16 ≠ 15) ∨
        (8 ≤ q.profileRate.toNat % 16 ∧ q.profileRate.toNat % 16 ≠ 15)) ∧
    ∀ g, segmentOf k q = some g →
      g.tag = q.tag ∧ g.gated = q.flags.getLsbD 0 ∧ g.notify = q.flags.getLsbD 1 ∧
      (q.profileRate.toNat % 16 = 15 → g.rate = k.defaultRate) ∧
      (q.profileRate.toNat % 16 ≠ 15 → g.rate.val = q.profileRate.toNat % 16) ∧
      (q.kind = 0x04 → g.job = .dwell q.value) ∧
      (q.kind ≠ 0x04 → ∃ profile : ProfileId,
        (q.profileRate.toNat / 16 = 15 → profile = k.defaultProfile) ∧
        (q.profileRate.toNat / 16 ≠ 15 → profile.val = q.profileRate.toNat / 16) ∧
        (q.kind = 0x01 → g.job = .move q.value profile) ∧ (q.kind = 0x02 → g.job = .goto q.value profile) ∧
        (q.kind = 0x03 → g.job = .home profile))

/-- CONFIGURE: the state, the arguments and the positions are checked in that order; then one exchange with the store, which
refuses an EMPTY profile or a pair that does not fit, or takes the new references and gives back the old ones in the one step in
which the whole configuration is written (R18 to R21, R89, R90, R92). -/
def Obligations.AConfigurationIsExchangedWholeOrRefused : Prop :=
  (∀ (s : State) (n : AxisId) (p : Port) (a b : Axis) (args : ConfigureArgs),
    s.axis n = a → a.offer = some (.request p (.configure args)) → b = { a with fromClaim := a.fromClaim.tail } →
    (a.state ≠ .off → a.state ≠ .idle →
      exec (.configure n) s = .next ((s.setAxis n b).reply p ⟨.badState, []⟩)) ∧
    (a.state = .off ∨ a.state = .idle → configOf args = none →
      exec (.configure n) s = .next ((s.setAxis n b).reply p ⟨.badArgument, []⟩)) ∧
    ∀ (c : AxisConfig) (inside : Word16 → Prop), a.state = .off ∨ a.state = .idle → configOf args = some c →
      (∀ x, inside x ↔ c.loLimit.toNat ≤ x.toNat ∧ x.toNat ≤ c.hiLimit.toNat) →
      (¬ (inside c.homePosition ∧ inside c.parkPosition ∧ (a.positionValid = true → inside a.position)) →
        exec (.configure n) s = .next ((s.setAxis n b).reply p ⟨.outOfLimits, []⟩)) ∧
      (inside c.homePosition → inside c.parkPosition → (a.positionValid = true → inside a.position) →
        exec (.configure n) s = .next (s.setAxis n { b with busy := .configure p c }))) ∧
  ∀ (s : State) (n : AxisId) (p : Port) (a b : Axis) (c : AxisConfig) (d k : Option Shape),
    s.axis n = a → a.busy = .configure p c → b = { a with busy := .none } →
    d = (s.table.get c.defaultProfile).state.shape → k = (s.table.get c.parkProfile).state.shape →
    (d = none ∨ k = none →
      exec (.configurationExchange n) s = .next ((s.setAxis n b).reply p ⟨.profileEmpty, []⟩)) ∧
    ∀ h h', d = some h → k = some h' →
      (period c.defaultRate < reverseTotal h ∨ period c.parkRate < reverseTotal h' →
        exec (.configurationExchange n) s = .next ((s.setAxis n b).reply p ⟨.fitConflict, []⟩)) ∧
      (reverseTotal h ≤ period c.defaultRate → reverseTotal h' ≤ period c.parkRate →
        ∃ t : State,
          exec (.configurationExchange n) s = .next ((t.setAxis n { b with config := c }).reply p ⟨.ok, []⟩) ∧
          t = { s with store := { s.store with entries := t.table } } ∧
          ∀ e, t.table.get e = { s.table.get e with
            refCount := (s.table.get e).refCount + c.refs e - a.config.refs e })

/-- SET_POSITION: refused outside OFF and IDLE, then outside the limits; else it writes the position and makes it valid, and
changes nothing else (R101). -/
def Obligations.SetPositionMakesThePositionKnown : Prop :=
  ∀ (s : State) (n : AxisId) (p : Port) (a b : Axis) (value : Word16),
    s.axis n = a → a.offer = some (.request p (.setPosition value)) → b = { a with fromClaim := a.fromClaim.tail } →
    (a.state ≠ .off → a.state ≠ .idle →
      exec (.setPosition n) s = .next ((s.setAxis n b).reply p ⟨.badState, []⟩)) ∧
    (a.state = .off ∨ a.state = .idle → value.toNat < a.config.loLimit.toNat ∨ a.config.hiLimit.toNat < value.toNat →
      exec (.setPosition n) s = .next ((s.setAxis n b).reply p ⟨.outOfLimits, []⟩)) ∧
    (a.state = .off ∨ a.state = .idle → a.config.loLimit.toNat ≤ value.toNat → value.toNat ≤ a.config.hiLimit.toNat →
      exec (.setPosition n) s = .next
        ((s.setAxis n { b with position := value, positionValid := true }).reply p ⟨.ok, []⟩))

/-! ## Segments: admission, activation, CANCEL (2 R29 to R53) -/

/-- QUEUE: refused in OFF and FAULTED, then for its arguments, then for want of room. A DWELL joins the queue and, on an IDLE
axis, activates in the same event; every other kind asks the store for its reference (R35 to R40, R45, R47, R49). -/
def Obligations.AQueueIsRefusedJoinsOrAsks : Prop :=
  ∀ (s : State) (n : AxisId) (p : Port) (a b : Axis) (q : QueueArgs),
    s.axis n = a → a.offer = some (.request p (.queue q)) → b = { a with fromClaim := a.fromClaim.tail } →
    (a.state = .off → exec (.queue n) s = .next ((s.setAxis n b).reply p ⟨.axisOff, []⟩)) ∧
    (a.state = .faulted → exec (.queue n) s = .next ((s.setAxis n b).reply p ⟨.axisFaulted, []⟩)) ∧
    (a.state ≠ .off → a.state ≠ .faulted →
      (segmentOf a.config q = none → exec (.queue n) s = .next ((s.setAxis n b).reply p ⟨.badArgument, []⟩)) ∧
      ∀ g, segmentOf a.config q = some g →
        (4 ≤ a.waiting.length → exec (.queue n) s = .next ((s.setAxis n b).reply p ⟨.queueFull, []⟩)) ∧
        (a.waiting.length < 4 → g.isDwell = false →
          exec (.queue n) s = .next (s.setAxis n { b with busy := .admission p g })) ∧
        (a.waiting.length < 4 → g.isDwell = true → a.state ≠ .idle →
          exec (.queue n) s = .next ((s.setAxis n { b with waiting := a.waiting ++ [g] }).reply p
            ⟨.ok, [BitVec.ofNat 8 (a.waiting.length + 1)]⟩)) ∧
        (a.state = .idle → a.slot = none → a.waiting = [] → ∀ periods, g.job = .dwell periods →
          exec (.queue n) s = .next
            ((s.setAxis n (b.activated s.table g [] ⟨none, periods.toNat, false⟩)).reply p ⟨.ok, [0x00]⟩)))

/-- The admission take of a segment that names profile `k`: refused where the entry is EMPTY, or where the segment can run in
reverse and does not fit; else the count rises by one and the segment joins the queue or, on an IDLE axis, activates in the same
event: into the state of R47, through its completion at once with a count of 0, or into FAULTED for a GOTO without a known
position, behind any that waited (R39, R40, R42 to R50, R89, R90, R92). -/
def Obligations.AnAdmissionTakeAdmitsOrRefuses : Prop :=
  ∀ (s t : State) (n : AxisId) (p : Port) (a b : Axis) (g : Segment) (k : ProfileId),
    s.axis n = a → a.busy = .admission p g → g.profile = some k → b = { a with busy := .none } →
    t = s.setTable k { s.table.get k with refCount := (s.table.get k).refCount + 1 } →
    ((s.table.get k).state.shape = none →
      exec (.admissionTake n) s = .next ((s.setAxis n b).reply p ⟨.profileEmpty, []⟩)) ∧
    ∀ h, (s.table.get k).state.shape = some h →
      (g.reversible = true → period g.rate < reverseTotal h →
        exec (.admissionTake n) s = .next ((s.setAxis n b).reply p ⟨.fitConflict, []⟩)) ∧
      (g.reversible = false ∨ reverseTotal h ≤ period g.rate →
        (a.state ≠ .idle →
          exec (.admissionTake n) s = .next ((t.setAxis n { b with waiting := a.waiting ++ [g] }).reply p
            ⟨.ok, [BitVec.ofNat 8 (a.waiting.length + 1)]⟩)) ∧
        (a.state = .idle → a.slot = none →
          ∀ c left, b.goesOn t.table (a.waiting ++ [g]) = (c, left) →
            execAll (.admissionTake n :: gives n left) s = .next
              (((t.withGivenBack left).setAxis n c).reply p ⟨.ok, [BitVec.ofNat 8 c.waiting.length]⟩)))

/-- Resolution against the position and the limits that the axis holds: MOVE and GOTO clip a known position's target to the
limits, computed without wrapping, and count the distance; a MOVE without a known position counts its magnitude; a GOTO without
one has nothing to resolve against; HOME, DWELL and PARK (R43 to R46). -/
def Obligations.SegmentsResolveAgainstTheAxis : Prop :=
  ∀ (a : Axis) (k : ProfileId), a.config.loLimit.toNat ≤ a.config.hiLimit.toNat →
    (∀ (x : Word16) (target goal : Int), a.positionValid = true →
      target = (a.position.toNat : Int) + x.toInt →
      goal = max (a.config.loLimit.toNat : Int) (min (a.config.hiLimit.toNat : Int) target) →
      a.resolve (.move x k) = some
        ⟨some (if x.toInt < 0 then .reverse else .forward), (goal - (a.position.toNat : Int)).natAbs,
          decide (goal ≠ target)⟩) ∧
    (∀ x : Word16, a.positionValid = false →
      a.resolve (.move x k) = some ⟨some (if x.toInt < 0 then .reverse else .forward), x.toInt.natAbs, false⟩) ∧
    (∀ (x : Word16) (goal : Int), a.positionValid = true →
      goal = max (a.config.loLimit.toNat : Int) (min (a.config.hiLimit.toNat : Int) (x.toNat : Int)) →
      a.resolve (.goto x k) = some
        ⟨if (a.position.toNat : Int) < goal then some .forward
          else if goal < (a.position.toNat : Int) then some .reverse else none,
          (goal - (a.position.toNat : Int)).natAbs, decide (goal ≠ (x.toNat : Int))⟩) ∧
    (∀ x : Word16, a.positionValid = false → a.resolve (.goto x k) = none) ∧
    a.resolve (.home k) = some ⟨some .reverse, a.config.homeOverdrive.toNat, false⟩ ∧
    (∀ x : Word16, a.resolve (.dwell x) = some ⟨none, x.toNat, false⟩) ∧
    ∀ x : Word16, a.positionValid = true →
      a.resolve (.park x k) = some
        ⟨if a.position.toNat < x.toNat then some .forward else if x.toNat < a.position.toNat then some .reverse else none,
          ((x.toNat : Int) - (a.position.toNat : Int)).natAbs, false⟩

/-- CANCEL removes every waiting segment with the tag, whatever its place, gives their references back, keeps the others in
their order, and reports how many went and whether the active segment carries the tag; the active segment stays, and no notice
is posted (R52, R53, R91). -/
def Obligations.CancelRemovesEveryWaitingSegmentOfATag : Prop :=
  ∀ (s : State) (n : AxisId) (p : Port) (a : Axis) (tag match_ : Byte) (removed : List Segment),
    s.axis n = a → a.offer = some (.request p (.cancel tag)) →
    removed = (a.waiting.filter fun g => g.tag == tag) →
    match_ = (match a.slot with
      | some act => if act.seg.tag = tag then 0x01 else 0x00
      | none => 0x00) →
    execAll (.cancel n :: gives n removed) s = .next
      (((s.withGivenBack removed).setAxis n
        { a with
          fromClaim := a.fromClaim.tail
          waiting := a.waiting.filter fun g => g.tag != tag }).reply p ⟨.ok, [BitVec.ofNat 8 removed.length, match_]⟩)

/-! ## Holds, SKIP, STOP and the actions of the claim unit (3 R67 to R79, 5 R107 to R113, 6 R117) -/

/-- PAUSE and RESUME: refused in OFF; else pause_flag is written and the hold takes effect by the axis's state: between pulses
a RUNNING axis enters HELD at once, and a HELD one leaves it with its last cause and begins its next step if it may (R67, R69,
R70, R71). -/
def Obligations.PauseHoldsAndResumeReleases : Prop :=
  ∀ (s : State) (n : AxisId) (p : Port) (a b : Axis), s.axis n = a → b = { a with fromClaim := a.fromClaim.tail } →
    (a.offer = some (.request p .pause) →
      (a.state = .off → exec (.pause n) s = .next ((s.setAxis n b).reply p ⟨.axisOff, []⟩)) ∧
      (a.state = .running → a.pulse = none →
        exec (.pause n) s = .next ((s.setAxis n { b with pauseFlag := true, state := .held }).reply p ⟨.ok, []⟩)) ∧
      (a.state ≠ .off → a.state ≠ .running ∨ a.pulse ≠ none →
        exec (.pause n) s = .next ((s.setAxis n { b with pauseFlag := true }).reply p ⟨.ok, []⟩))) ∧
    (a.offer = some (.request p .resume) →
      (a.state = .off → exec (.resume n) s = .next ((s.setAxis n b).reply p ⟨.axisOff, []⟩)) ∧
      (a.state = .held → a.haltSeen = false →
        exec (.resume n) s = .next
          ((s.setAxis n (Axis.beginStep s.table { b with pauseFlag := false, state := .running })).reply p ⟨.ok, []⟩)) ∧
      (a.state ≠ .off → a.state ≠ .held → a.haltSeen = false →
        exec (.resume n) s = .next ((s.setAxis n { b with pauseFlag := false }).reply p ⟨.ok, []⟩)) ∧
      (a.state ≠ .off → a.haltSeen = true → a.state ≠ .running ∨ a.pulse ≠ none →
        exec (.resume n) s = .next ((s.setAxis n { b with pauseFlag := false }).reply p ⟨.ok, []⟩)))

/-- SKIP: refused by state; during a pulse it waits for the pulse end; with no pulse in progress the active segment is
discarded at once with its reference given back, and the axis goes on: to IDLE, to the next head, through those with a count of
0, or into FAULTED for a GOTO without a known position (R34, R44, R48, R73, R74, R75, R91). -/
def Obligations.SkipEndsTheActiveSegment : Prop :=
  ∀ (s : State) (n : AxisId) (p : Port) (a b : Axis),
    s.axis n = a → a.offer = some (.request p .skip) → b = { a with fromClaim := a.fromClaim.tail } →
    (a.state = .off → exec (.skip n) s = .next ((s.setAxis n b).reply p ⟨.axisOff, []⟩)) ∧
    (a.state = .idle ∨ a.state = .faulted ∨ a.state = .stopping →
      exec (.skip n) s = .next ((s.setAxis n b).reply p ⟨.badState, []⟩)) ∧
    (∀ pl, a.state = .running → a.pulse = some pl →
      (pl.endAction ≠ .none → exec (.skip n) s = .next ((s.setAxis n b).reply p ⟨.badState, []⟩)) ∧
      (pl.endAction = .none →
        exec (.skip n) s = .next
          ((s.setAxis n { b with pulse := some { pl with endAction := .skip } }).reply p ⟨.ok, []⟩))) ∧
    ∀ (act : Active) (b' c : Axis) (left : List Segment),
      a.state = .running ∨ a.state = .held ∨ a.state = .armed → a.pulse = none → a.slot = some act →
      b' = { b with slot := none, truncReported := false, dwellMark := false } →
      b'.goesOn s.table a.waiting = (c, left) →
      execAll (.skip n :: gives n (act.seg :: left)) s = .next
        (((s.withGivenBack (act.seg :: left)).setAxis n c).reply p ⟨.ok, []⟩)

/-- STOP and the release, seize, lapse and detach actions where no segment is ended: an OFF axis, an IDLE one, and one whose
lapse_action is FINISH stay as they are; a FAULTED axis loses its queue; during a pulse the queue is discarded and the pulse
finishes in STOPPING with the new end action, which does not replace RESTART. Each sends the reply or answer it owes, a seize
action with the other port as former owner (R11, R23, R76, R77, R108, R127, R129 to R132; log entry 17). -/
def Obligations.StopsAndActionsAtRestAndInAPulse : Prop :=
  ∀ (s : State) (n : AxisId) (m : AxisMsg) (a b : Axis),
    s.axis n = a → a.offer = some m → b = { a with fromClaim := a.fromClaim.tail } →
    (m = .lapse ∨ (∃ p, m = .detach p) → a.config.lapseAction = .finish →
      exec (m.takenBy n) s = .next ((s.setAxis n b).answered n m)) ∧
    ∀ why, m.endsWork a.config.lapseAction = some why →
      (a.state = .off → exec (m.takenBy n) s = .next ((s.setAxis n b).answered n m)) ∧
      (a.state = .idle → why = .stop ∨ a.positionValid = false →
        exec (m.takenBy n) s = .next ((s.setAxis n b).answered n m)) ∧
      (a.state = .faulted →
        execAll (m.takenBy n :: gives n a.waiting) s = .next
          (((s.withGivenBack a.waiting).setAxis n { b with waiting := [] }).answered n m)) ∧
      ∀ pl, a.state = .running ∨ a.state = .stopping → a.pulse = some pl →
        execAll (m.takenBy n :: gives n a.waiting) s = .next
          (((s.withGivenBack a.waiting).setAxis n
            { b with
              waiting := []
              state := .stopping
              pulse := some { pl with
                endAction := if pl.endAction = .finish .restart then .finish .restart else .finish why } }).answered n m)

/-- STOP and the release, seize, lapse and detach actions on a RUNNING axis between pulses, a HELD or an ARMED one: the queue,
oldest first, and the active segment are discarded with their references given back, and the axis enters IDLE and posts IDLE,
and no DONE; a PARK-type action does no more where the position is not known. Each sends the reply or answer it owes, a seize
action with the other port as former owner (R33, R34, R76, R77, R91, R107, R108, R119, R129, R130; log entry 17). -/
def Obligations.StopsAndActionsBetweenPulsesEndAllWork : Prop :=
  ∀ (s : State) (n : AxisId) (m : AxisMsg) (a : Axis) (act : Active) (why : Stopping),
    s.axis n = a → a.offer = some m → m.endsWork a.config.lapseAction = some why →
    a.state = .running ∨ a.state = .held ∨ a.state = .armed → a.pulse = none → a.slot = some act →
    why = .stop ∨ a.positionValid = false →
    execAll (m.takenBy n :: gives n (a.waiting ++ [act.seg])) s = .next
      (((s.withGivenBack (a.waiting ++ [act.seg])).setAxis n
        { a with
          fromClaim := a.fromClaim.tail, waiting := [], slot := none, truncReported := false, dwellMark := false
          state := .idle, faultKind := none, posts := a.posts ++ [⟨.idle, 0⟩] }).answered n m)

/-- A PARK-type action on an axis whose position is known, IDLE or once the action has ended its work, places a PARK segment
made from the configuration: its reference is taken without a check, it resolves to park_position and the axis enters RUNNING or
HELD; one that stands there already completes with DONE and tag FFh and goes on to IDLE (R46, R48, R90, R107, R108, R109). -/
def Obligations.AParkIsPlacedWhereThePositionIsKnown : Prop :=
  ∀ (s : State) (n : AxisId) (m : AxisMsg) (a b c : Axis) (left : List Segment) (taken : State → State),
    s.axis n = a → a.offer = some m → m.endsWork a.config.lapseAction = some .park → a.positionValid = true →
    b = { a with fromClaim := a.fromClaim.tail } →
    taken = (fun s => s.setTable a.config.parkProfile
      { s.table.get a.config.parkProfile with refCount := (s.table.get a.config.parkProfile).refCount + 1 }) →
    (a.state = .idle → a.slot = none → b.parks s.table = (c, left) →
      execAll (m.takenBy n :: .parkTake n :: gives n left) s = .next
        ((((taken s).withGivenBack left).setAxis n c).answered n m)) ∧
    ∀ act gone, a.state = .running ∨ a.state = .held ∨ a.state = .armed → a.pulse = none → a.slot = some act →
      gone = a.waiting ++ [act.seg] →
      Axis.parks s.table
        { b with
          waiting := [], slot := none, truncReported := false, dwellMark := false, state := .idle, faultKind := none
          posts := a.posts ++ [⟨.idle, 0⟩] } = (c, left) →
      execAll (m.takenBy n :: (gives n gone ++ .parkTake n :: gives n left)) s = .next
        ((((taken (s.withGivenBack gone)).withGivenBack left).setAxis n c).answered n m)

/-- A start takes an ARMED axis to HELD where a hold cause is present, else to RUNNING, where its first step begins at once if
the period has expired, and answers started; in any other state nothing changes and the answer is not started (R117). -/
def Obligations.AStartLetsAnArmedAxisGo : Prop :=
  ∀ (s : State) (n : AxisId) (p : Port) (a b : Axis) (answers : Bool → PortUnit),
    s.axis n = a → a.offer = some (.start p) → b = { a with fromClaim := a.fromClaim.tail } →
    (∀ started, answers started =
      { s.port p with startAnswers := (s.port p).startAnswers.set n (some started) }) →
    (a.state = .armed → (a.pauseFlag || a.haltSeen) = true →
      exec (.start n) s = .next ((s.setAxis n { b with state := .held }).setPort p (answers true))) ∧
    (a.state = .armed → (a.pauseFlag || a.haltSeen) = false → a.periodExpired = false →
      exec (.start n) s = .next ((s.setAxis n { b with state := .running }).setPort p (answers true))) ∧
    (a.state = .armed → (a.pauseFlag || a.haltSeen) = false → a.periodExpired = true →
      exec (.start n) s = .next
        ((s.setAxis n (Axis.beginStep s.table { b with state := .running })).setPort p (answers true))) ∧
    (a.state ≠ .armed → exec (.start n) s = .next ((s.setAxis n b).setPort p (answers false)))

/-! ## Profiles (4 R85 to R95) -/

/-- DEFINE_PROFILE and DELETE_PROFILE: refused for the entry number or a field outside its choices, for entry 0, and for an
entry in use, in that order; else the entry takes the seven fields whole, or is emptied. READ_PROFILE reports state, fields and
count, and 00h throughout for an EMPTY entry (R85, R93, R94, R95, 10 Table 10-2, Table 10-5). -/
def Obligations.ProfilesAreDefinedDeletedAndRead : Prop :=
  ∀ (s t : State) (p : Port) (entry : Byte),
    t = { s with store := { s.store with inbox := s.store.inbox.set p none } } →
    (∀ f : ProfileArgs, s.store.inbox.get p = some (.defineProfile entry f) →
      (8 ≤ entry.toNat ∨ shapeOf f = none →
        exec (.defineProfile p) s = .next (t.reply p ⟨.badArgument, []⟩)) ∧
      (∀ h, shapeOf f = some h →
        h.inChoices ∧ h = ⟨f.fwdMain.toNat, f.fwdTailCount.toNat, h.fwdTailHalf, f.revLead.toNat, f.revMain.toNat,
          f.revFinal.toNat, f.revTailCount.toNat⟩ ∧ f.fwdTailDuty.toNat = if h.fwdTailHalf then 1 else 0) ∧
      ((∃ h : Shape, h.inChoices ∧ h = ⟨f.fwdMain.toNat, f.fwdTailCount.toNat, h.fwdTailHalf, f.revLead.toNat,
          f.revMain.toNat, f.revFinal.toNat, f.revTailCount.toNat⟩ ∧
          f.fwdTailDuty.toNat = if h.fwdTailHalf then 1 else 0) → shapeOf f ≠ none) ∧
      ∀ (k : ProfileId) (h : Shape), entry.toNat = k.val → shapeOf f = some h →
        (k = 0 → exec (.defineProfile p) s = .next (t.reply p ⟨.profileReadOnly, []⟩)) ∧
        (k ≠ 0 → 0 < (s.table.get k).refCount →
          exec (.defineProfile p) s = .next (t.reply p ⟨.profileInUse, []⟩)) ∧
        (k ≠ 0 → (s.table.get k).refCount = 0 →
          exec (.defineProfile p) s = .next ((t.setTable k ⟨.defined h, 0⟩).reply p ⟨.ok, []⟩))) ∧
    (s.store.inbox.get p = some (.deleteProfile entry) →
      (8 ≤ entry.toNat → exec (.deleteProfile p) s = .next (t.reply p ⟨.badArgument, []⟩)) ∧
      ∀ k : ProfileId, entry.toNat = k.val →
        (k = 0 → exec (.deleteProfile p) s = .next (t.reply p ⟨.profileReadOnly, []⟩)) ∧
        (k ≠ 0 → 0 < (s.table.get k).refCount →
          exec (.deleteProfile p) s = .next (t.reply p ⟨.profileInUse, []⟩)) ∧
        (k ≠ 0 → (s.table.get k).refCount = 0 →
          exec (.deleteProfile p) s = .next ((t.setTable k ⟨.empty, 0⟩).reply p ⟨.ok, []⟩))) ∧
    (s.store.inbox.get p = some (.readProfile entry) →
      (8 ≤ entry.toNat → exec (.readProfile p) s = .next (t.reply p ⟨.badArgument, []⟩)) ∧
      ∀ k : ProfileId, entry.toNat = k.val →
        exec (.readProfile p) s = .next (t.reply p ⟨.ok,
          match (s.table.get k).state with
          | .empty => [0x00, 0x00, 0x00, 0x00, 0x00, 0x00, 0x00, 0x00, 0x00]
          | .defined h => 0x01 :: h.bytes ++ [BitVec.ofNat 8 (s.table.get k).refCount]
          | .builtIn h => 0x02 :: h.bytes ++ [BitVec.ofNat 8 (s.table.get k).refCount]⟩))

/-- A give lowers the count of the entry that the leaving segment names by one, and the segment leaves the axis in the same
step: the oldest waiting one of a discard, the oldest with the tag in a CANCEL, the active one of a discard, or the active one
of a completion, with its DONE; what is left of the event follows (R31, R34, R50, R52, R89, R91; log entry 8). -/
def Obligations.AGiveReturnsOneReference : Prop :=
  ∀ (s t : State) (n : AxisId) (a b : Axis) (g : Segment) (k : ProfileId) (ts : List Task),
    s.axis n = a → g.profile = some k → b = { a with busy := .none } →
    t = s.setTable k { s.table.get k with refCount := (s.table.get k).refCount - 1 } →
    (∀ rest, a.busy = .give .oldest ts → a.waiting = g :: rest →
      exec (.give n) s = .next (t.runAxis n { b with waiting := rest } ts)) ∧
    (∀ tag before after, a.busy = .give (.tagged tag) ts → g.tag = tag → a.waiting = before ++ g :: after →
      (∀ x ∈ before, x.tag ≠ tag ∨ x.profile = none) →
      exec (.give n) s = .next (t.runAxis n { b with waiting := before ++ after } ts)) ∧
    ∀ act, a.slot = some act → act.seg = g →
      (a.busy = .give (.active false) ts →
        exec (.give n) s =
          .next (t.runAxis n { b with slot := none, truncReported := false, dwellMark := false } ts)) ∧
      (a.busy = .give (.active true) ts →
        exec (.give n) s = .next (t.runAxis n
          { b with
            slot := none, truncReported := false, dwellMark := false, posts := a.posts ++ g.donePost } ts))

/-! ## Steps and pulses (3 R56 to R66, R79, R81, R82, 1 R13, R28) -/

/-- The output that a pulse drives at each du: a forward pulse its main part and tail cycles on main_pin; a reverse pulse its
lead and final part on the opposite output and its main part and tail cycles on main_pin; none once it reaches its cut (R61,
R62, R65). -/
def Obligations.PulsesDriveTheirParts : Prop :=
  ∀ (s : State) (n : AxisId) (pl : Pulse) (act : Active) (k : ProfileId) (h : Shape) (t : Nat) (c : Coil),
    (s.axis n).pulse = some pl → (s.axis n).slot = some act → (s.axis n).tripped = false →
    act.seg.profile = some k → (s.table.get k).state.shape = some h → t = pl.elapsed →
    (pl.cutAt ≤ t → s.coilPin n c = false) ∧
    (pl.direction = .forward → t < pl.cutAt → pl.cutAt ≤ h.fwdMain + 4 * h.fwdTailCount →
      (s.coilPin n c = true ↔ c = pl.mainPin ∧
        (t < h.fwdMain ∨ (t - h.fwdMain) % 4 < if h.fwdTailHalf then 2 else 1))) ∧
    ∀ main final tail, pl.direction = .reverse → t < pl.cutAt → main = h.revLead + h.revMain →
      final = main + h.revFinal → tail = final + 4 * h.revTailCount → pl.cutAt = tail →
      (t < h.revLead → (s.coilPin n c = true ↔ c = pl.mainPin.other)) ∧
      (h.revLead ≤ t → t < main → (s.coilPin n c = true ↔ c = pl.mainPin)) ∧
      (main ≤ t → t < final → (s.coilPin n c = true ↔ c = pl.mainPin.other)) ∧
      (final ≤ t → (s.coilPin n c = true ↔ c = pl.mainPin ∧ (t - final) % 4 < 2))

/-- In a sound state at most one of an axis's coil outputs is active, and none but in RUNNING and STOPPING (R13, R62, R78). -/
def Obligations.OneCoilAtMostAndOnlyInMotion : Prop :=
  ∀ (s : State) (n : AxisId), s.AxesSound →
    (s.coilPin n .a = false ∨ s.coilPin n .b = false) ∧
    ((s.axis n).state ≠ .running → (s.axis n).state ≠ .stopping → ∀ c, s.coilPin n c = false)

/-- A period expiry, taken when its time has run out: a RUNNING axis begins its next step, which flips phase and starts a pulse
of the profile's total, cut at the period where a forward total exceeds it, or its first dwell period, which sets the dwell
mark; in another state, with the slot empty, or while the driver has cut a pulse, the expiry is remembered. With the dwell mark
set a dwell period counts, and the next one begins, or the DWELL completes and the axis goes on (R12, R48, R50, R56 to R60,
R65, R66, R81; log entry 4). -/
def Obligations.APeriodExpiryBeginsTheNextStep : Prop :=
  ∀ (s t : State) (n : AxisId) (a b : Axis),
    s.axis n = a → a.free = true → a.periodExpired = false → t = s.advance a.periodLeft →
    b = { a with periodLeft := 0, periodExpired := true } →
    (a.slot = none → a.pulse = none → exec (.periodExpiry n) s = .next (t.setAxis n b)) ∧
    (a.pulse ≠ none → a.tripped = true → a.dwellMark = false →
      exec (.periodExpiry n) s = .next (t.setAxis n b)) ∧
    ∀ (act : Active) (h : Shape), a.pulse = none → a.slot = some act → h = act.seg.shapeIn s.table →
      (a.dwellMark = false → a.state ≠ .running → exec (.periodExpiry n) s = .next (t.setAxis n b)) ∧
      (a.dwellMark = false → a.state = .running → 0 < act.remaining →
        (act.seg.isDwell = false → act.direction = some .forward →
          exec (.periodExpiry n) s = .next (t.setAxis n
            { b with
              periodLeft := period act.seg.rate
              periodExpired := false
              phase := a.phase.other
              pulse := some
                ⟨.forward, a.phase, forwardTotal h, min (forwardTotal h) (period act.seg.rate),
                  decide (period act.seg.rate < forwardTotal h), 0, .none⟩ })) ∧
        (act.seg.isDwell = false → act.direction = some .reverse →
          exec (.periodExpiry n) s = .next (t.setAxis n
            { b with
              periodLeft := period act.seg.rate
              periodExpired := false
              phase := a.phase.other
              pulse := some ⟨.reverse, a.phase, reverseTotal h, reverseTotal h, false, 0, .none⟩ })) ∧
        (act.seg.isDwell = true →
          exec (.periodExpiry n) s = .next (t.setAxis n
            { b with periodLeft := period act.seg.rate, periodExpired := false, dwellMark := true }))) ∧
      (a.dwellMark = true → act.seg.isDwell = true → 1 < act.remaining →
        (a.state = .running →
          exec (.periodExpiry n) s = .next (t.setAxis n
            { b with
              periodLeft := period act.seg.rate
              periodExpired := false
              slot := some { act with remaining := act.remaining - 1 } })) ∧
        (a.state = .held →
          exec (.periodExpiry n) s = .next (t.setAxis n
            { b with dwellMark := false, slot := some { act with remaining := act.remaining - 1 } }))) ∧
      ∀ c left, a.dwellMark = true → act.seg.isDwell = true → act.remaining = 1 →
        a.state = .running ∨ a.state = .held →
        Axis.goesOn s.table a.waiting
          { b with
            dwellMark := false, slot := none, truncReported := false, posts := a.posts ++ act.seg.donePost } =
          (c, left) →
        execAll (.periodExpiry n :: gives n left) s = .next ((t.withGivenBack left).setAxis n c)

/-- A pulse end with steps left: the step counts, a known position moves by one unless the segment is a HOME, the first
truncated pulse posts TRUNC, and a hold takes effect. Where the period expires with the pulse both are one event, and a RUNNING
axis begins its next step in it (R7, R63, R64, R65, R67; log entries 4 and 15). -/
def Obligations.APulseEndCountsItsStep : Prop :=
  ∀ (s t : State) (n : AxisId) (a b : Axis) (act : Active) (pl : Pulse) (together : Prop),
    s.axis n = a → a.free = true → a.tripped = false → a.pulse = some pl → a.slot = some act →
    a.state = .running → a.periodExpired = false → pl.endAction = .none → 1 < act.remaining →
    t = s.advance (pl.cutAt - pl.elapsed) →
    b = { t.axis n with
          pulse := none
          slot := some { act with remaining := act.remaining - 1 }
          position :=
            if a.positionValid = true ∧ act.seg.isHome = false then
              match pl.direction with
              | .forward => a.position + 1
              | .reverse => a.position - 1
            else a.position
          posts := a.posts ++ if pl.truncated = true ∧ a.truncReported = false then [⟨.trunc, 0⟩] else []
          truncReported := a.truncReported || pl.truncated } →
    (together ↔ pl.cutAt = period act.seg.rate ∧ a.periodLeft ≤ pl.cutAt - pl.elapsed) →
    (¬ together → (a.pauseFlag || a.haltSeen) = true →
      exec (.pulseEnd n) s = .next (t.setAxis n { b with state := .held })) ∧
    (¬ together → (a.pauseFlag || a.haltSeen) = false → exec (.pulseEnd n) s = .next (t.setAxis n b)) ∧
    (together → (a.pauseFlag || a.haltSeen) = true →
      exec (.pulseEnd n) s = .next (t.setAxis n { b with state := .held, periodExpired := true })) ∧
    (∀ dir, together → (a.pauseFlag || a.haltSeen) = false → act.direction = some dir → act.seg.isDwell = false →
      exec (.pulseEnd n) s = .next (t.setAxis n
        { b with
          periodLeft := period act.seg.rate
          phase := a.phase.other
          pulse := some (Pulse.first (act.seg.shapeIn s.table) act.seg.rate dir a.phase) })) ∧
    (together → exec (.periodExpiry n) s = exec (.pulseEnd n) s)

/-- The last pulse of a segment, whether its end action is NONE, SKIP or STOP: the step counts, the segment completes, a HOME
making the position known at home_position, its reference is given back and DONE is posted; then the axis goes on, to IDLE or
to the next head, through those with a count of 0, or into FAULTED for a GOTO without a known position; and where the period
expires with the pulse, a step may begin at once (R12, R42, R44, R48, R50, R63, R64, R79, R105; log entries 4 and 15). -/
def Obligations.TheLastPulseCompletesItsSegment : Prop :=
  ∀ (s t : State) (n : AxisId) (a b c : Axis) (act : Active) (pl : Pulse) (left : List Segment),
    s.axis n = a → a.free = true → a.tripped = false → a.pulse = some pl → a.slot = some act →
    act.seg.profile ≠ none → act.remaining = 1 → a.periodExpired = false → a.state = pl.endAction.runsIn →
    pl.endAction = .none ∨ pl.endAction = .skip ∨ pl.endAction = .finish .stop →
    t = s.advance (pl.cutAt - pl.elapsed) →
    b = { t.axis n with
          pulse := none
          slot := none
          truncReported := false
          dwellMark := false
          positionValid := a.positionValid || act.seg.isHome
          position :=
            if act.seg.isHome then a.config.homePosition
            else if a.positionValid then
              match pl.direction with
              | .forward => a.position + 1
              | .reverse => a.position - 1
            else a.position
          posts :=
            a.posts ++ (if pl.truncated = true ∧ a.truncReported = false then [⟨.trunc, 0⟩] else []) ++
              act.seg.donePost } →
    b.goesOn s.table a.waiting = (c, left) →
    execAll (.pulseEnd n :: gives n (act.seg :: left)) s = .next
      ((t.withGivenBack (act.seg :: left)).setAxis n
        (c.expiresIf s.table (pl.cutAt = period act.seg.rate ∧ a.periodLeft ≤ pl.cutAt - pl.elapsed)))

/-- The end actions. With steps left, SKIP and STOP count the step and discard the segment with its reference given back and no
DONE; after SKIP the axis goes on, after STOP it enters IDLE with a notice and what waits then activates. RESTART discards
however many steps are left, enters IDLE without a notice and reports quiet; the step counts, and its TRUNC is posted, as at
any pulse end. PARK completes the segment at its last step, discards it before, discards the queue and enters IDLE with a
notice; then a PARK segment is placed where the position is known. Where the period expires with the pulse, a step may begin at
once (R12, R27, R34, R50, R63, R64, R79, R109, R110; log entries 4, 15 and 19). -/
def Obligations.EndActionsDiscardTheSegment : Prop :=
  ∀ (s t : State) (n : AxisId) (a b c : Axis) (act : Active) (pl : Pulse) (left : List Segment) (together : Prop)
    [Decidable together],
    s.axis n = a → a.free = true → a.tripped = false → a.pulse = some pl → a.slot = some act →
    act.seg.profile ≠ none → 0 < act.remaining → a.periodExpired = false → a.state = pl.endAction.runsIn →
    (together ↔ pl.cutAt = period act.seg.rate ∧ a.periodLeft ≤ pl.cutAt - pl.elapsed) →
    t = s.advance (pl.cutAt - pl.elapsed) →
    b = { t.axis n with
          pulse := none
          slot := none
          truncReported := false
          dwellMark := false
          position :=
            if a.positionValid = true ∧ act.seg.isHome = false then
              match pl.direction with
              | .forward => a.position + 1
              | .reverse => a.position - 1
            else a.position
          posts := a.posts ++ if pl.truncated = true ∧ a.truncReported = false then [⟨.trunc, 0⟩] else [] } →
    (pl.endAction = .skip → 1 < act.remaining → b.goesOn s.table a.waiting = (c, left) →
      execAll (.pulseEnd n :: gives n (act.seg :: left)) s = .next
        ((t.withGivenBack (act.seg :: left)).setAxis n (c.expiresIf s.table together))) ∧
    (pl.endAction = .finish .stop → 1 < act.remaining →
      Axis.wakes s.table { b with state := .idle, faultKind := none, posts := b.posts ++ [⟨.idle, 0⟩] } = (c, left) →
      execAll (.pulseEnd n :: gives n (act.seg :: left)) s = .next
        ((t.withGivenBack (act.seg :: left)).setAxis n (c.expiresIf s.table together))) ∧
    (pl.endAction = .finish .restart → Axis.wakes s.table { b with state := .idle, faultKind := none } = (c, left) →
      execAll (.pulseEnd n :: gives n (act.seg :: left)) s = .next
        { (t.withGivenBack (act.seg :: left)).setAxis n (c.expiresIf s.table together) with
          start := { t.start with quietSent := t.start.quietSent.set n true } }) ∧
    ∀ (ended : Axis) (gone : List Segment),
      pl.endAction = .finish .park → gone = act.seg :: a.waiting →
      ended = { b with
                waiting := []
                state := .idle
                faultKind := none
                position := if act.remaining = 1 ∧ act.seg.isHome = true then a.config.homePosition else b.position
                positionValid := a.positionValid || (act.remaining = 1 && act.seg.isHome)
                posts := b.posts ++ (if act.remaining = 1 then act.seg.donePost else []) ++ [⟨.idle, 0⟩] } →
      (ended.positionValid = false →
        execAll (.pulseEnd n :: gives n gone) s = .next
          ((t.withGivenBack gone).setAxis n (ended.expiresIf s.table together))) ∧
      (ended.positionValid = true → ended.parks s.table = (c, left) →
        execAll (.pulseEnd n :: (gives n gone ++ .parkTake n :: gives n left)) s = .next
          ((((t.withGivenBack gone).takeRef a.config.parkProfile).withGivenBack left).setAxis n
            (c.expiresIf s.table together)))

/-- An overcurrent detected while an output is active cuts the pulse, which does not count and posts no TRUNC: the position is
lost, the active segment is discarded with its reference given back, and the axis is FAULTED and posts FAULT; in STOPPING its
queue goes too; where its restart waited for the pulse it is IDLE without notice, reports quiet, and goes on to what waits. A
controller that holds an exchange takes it later; with no output active nothing is detected (R1, R12, R22, R28, R81, R82; log
entries 10, 12 and 16). -/
def Obligations.AnOvercurrentCutsThePulseAndFaults : Prop :=
  ∀ (s : State) (n : AxisId) (a b : Axis) (act : Active) (pl : Pulse),
    s.axis n = a → a.pulse = some pl → a.slot = some act →
    b = { a with
          pulse := none, tripped := false, positionValid := false, slot := none, truncReported := false
          dwellMark := false } →
    (s.coilPin n .a = false → s.coilPin n .b = false → a.tripped = false → exec (.overcurrent n) s = .next s) ∧
    (a.free = false → (∃ c, s.coilPin n c = true) → exec (.overcurrent n) s = .next (s.setAxis n { a with tripped := true })) ∧
    (a.free = true → a.tripped = true ∨ (∃ c, s.coilPin n c = true) →
      (a.state = .running → pl.endAction ≠ .finish .restart →
        execAll (.overcurrent n :: gives n [act.seg]) s = .next
          ((s.withGivenBack [act.seg]).setAxis n
            { b with
              state := .faulted, faultKind := some .overcurrent, posts := a.posts ++ [⟨.fault, 0⟩] })) ∧
      (a.state = .stopping → pl.endAction ≠ .finish .restart →
        execAll (.overcurrent n :: gives n (act.seg :: a.waiting)) s = .next
          ((s.withGivenBack (act.seg :: a.waiting)).setAxis n
            { b with
              waiting := [], state := .faulted, faultKind := some .overcurrent
              posts := a.posts ++ [⟨.fault, 0⟩] })) ∧
      ∀ c left, pl.endAction = .finish .restart →
        Axis.wakes s.table { b with state := .idle, faultKind := none } = (c, left) →
        execAll (.overcurrent n :: gives n (act.seg :: left)) s = .next
          { (s.withGivenBack (act.seg :: left)).setAxis n c with
            start := { s.start with quietSent := s.start.quietSent.set n true } })

/-! ## Notices (8 R142 to R157) -/

/-- A posting of an axis controller is filed for the port that the routing copy names and for each other port that watches the
axis, once each, and one of the claim unit for the port it is addressed to and no other: the kind becomes pending, a DONE also
sets the tag and raises the count up to 15; no other record, mask or routing value changes (R143 to R146). -/
def Obligations.PostingsAreFiledWhereTheyBelong : Prop :=
  ∀ (s : State) (src : PostSource) (n : AxisId) (k : NoticeKind) (tag : Byte) (reached : Port → Prop) (u : State),
    (match src with
      | .axis m => m = n ∧ ∃ rest, (s.axis n).posts = ⟨k, tag⟩ :: rest ∧
          u = s.setAxis n { s.axis n with posts := rest } ∧
          ∀ q, reached q ↔ s.notice.routing.get n = some q ∨ (s.notice.watchMask.get q).getLsbD n.val = true
      | .claimUnit => k ≠ .done ∧ ∃ p rest, s.claim.toNotice = .posting k n p :: rest ∧
          u = { s with claim := { s.claim with toNotice := rest } } ∧ ∀ q, reached q ↔ q = p) →
    ∃ t, exec (.noticePosting src) s = .next t ∧
      t = { u with notice := { s.notice with records := t.notice.records } } ∧
      ∀ q m,
        (m ≠ n ∨ ¬ reached q → t.notice.record q m = s.notice.record q m) ∧
        (m = n → reached q →
          (∀ j : NoticeKind, (t.notice.record q m).pending.getLsbD j.bit.val = true ↔
            j = k ∨ (s.notice.record q m).pending.getLsbD j.bit.val = true) ∧
          (k ≠ .done →
            (t.notice.record q m).lastDoneTag = (s.notice.record q m).lastDoneTag ∧
            (t.notice.record q m).doneCount = (s.notice.record q m).doneCount) ∧
          (k = .done →
            (t.notice.record q m).lastDoneTag = tag ∧
            (t.notice.record q m).doneCount = min 15 ((s.notice.record q m).doneCount + 1)))

/-- An owner-change report writes the routing copy, and one of a restart step is answered to the claim unit; the clear of a
DETACH empties the requester's eight records and its watch mask, keeps its notice mask, and is answered to its port unit (R142,
R147, R155). -/
def Obligations.ReportsWriteTheRoutingAndADetachClears : Prop :=
  (∀ (s : State) (n : AxisId) (owner : Owner) (answered : Bool) (rest : List NoticeMsg),
    s.claim.toNotice = .report n owner answered :: rest →
    exec .ownerChangeReport s = .next
      { s with
        claim :=
          { s.claim with
            toNotice := rest
            answersIn := if answered then s.claim.answersIn + 1 else s.claim.answersIn }
        notice := { s.notice with routing := s.notice.routing.set n owner } }) ∧
  ∀ (s : State) (p : Port) (rest : List NoticeMsg), s.claim.toNotice = .clear p :: rest →
    exec .detachClear s = .next (State.setPort
      { s with
        claim := { s.claim with toNotice := rest }
        notice :=
          { s.notice with
            records := s.notice.records.set p (Eight.same ⟨0, 0, 0⟩)
            watchMask := s.notice.watchMask.set p 0 } } p { s.port p with clearAnswer := true })

/-- READ_NOTICES and ACK_NOTICES reply with the requester's record as it stands; the first changes nothing, the second then
clears the kinds it names and, if DONE is named, the tag and the count, and touches no other record, mask or axis (R152,
R153). -/
def Obligations.NoticesAreReadAndAcknowledged : Prop :=
  ∀ (s t : State) (p : Port) (axis : Byte),
    t = { s with notice := { s.notice with inbox := s.notice.inbox.set p none } } →
    (s.notice.inbox.get p = some (.readNotices axis) →
      (8 ≤ axis.toNat → exec (.readNotices p) s = .next (t.reply p ⟨.badArgument, []⟩)) ∧
      ∀ (n : AxisId) (r : NoticeRecord), axis.toNat = n.val → r = s.notice.record p n →
        exec (.readNotices p) s = .next
          (t.reply p ⟨.ok, [r.pending, r.lastDoneTag, BitVec.ofNat 8 r.doneCount]⟩)) ∧
    ∀ kinds, s.notice.inbox.get p = some (.ackNotices axis kinds) →
      (8 ≤ axis.toNat → exec (.ackNotices p) s = .next (t.reply p ⟨.badArgument, []⟩)) ∧
      ∀ (n : AxisId) (r : NoticeRecord), axis.toNat = n.val → r = s.notice.record p n →
        ∃ left : NoticeRecord,
          exec (.ackNotices p) s = .next
            (State.reply { t with notice := t.notice.setRecord p n left } p
              ⟨.ok, [r.pending, r.lastDoneTag, BitVec.ofNat 8 r.doneCount]⟩) ∧
          (∀ i, left.pending.getLsbD i = true ↔ r.pending.getLsbD i = true ∧ kinds.getLsbD i = false) ∧
          (kinds.getLsbD 0 = true → left.lastDoneTag = 0 ∧ left.doneCount = 0) ∧
          (kinds.getLsbD 0 = false → left.lastDoneTag = r.lastDoneTag ∧ left.doneCount = r.doneCount)

/-- SET_NOTICE_MASK and SET_WATCH replace the requester's mask and nothing else. A port's attention summary is the set of axes
with a pending kind that its notice mask enables, and its attention line is active, once READY, exactly when that set is not
empty (R148 to R151, R181). -/
def Obligations.MasksDecideAttention : Prop :=
  (∀ (s t : State) (p : Port) (x : Byte),
    t = { s with notice := { s.notice with inbox := s.notice.inbox.set p none } } →
    (s.notice.inbox.get p = some (.setNoticeMask x) →
      exec (.setNoticeMask p) s = .next (State.reply
        { t with notice := { t.notice with noticeMask := s.notice.noticeMask.set p x } } p ⟨.ok, []⟩)) ∧
    (s.notice.inbox.get p = some (.setWatch x) →
      exec (.setWatch p) s = .next (State.reply
        { t with notice := { t.notice with watchMask := s.notice.watchMask.set p x } } p ⟨.ok, []⟩))) ∧
  ∀ (s : State) (p : Port),
    (∀ n : AxisId, (s.notice.summary p).getLsbD n.val = true ↔
      ∃ k : NoticeKind, (s.notice.record p n).pending.getLsbD k.bit.val = true ∧
        (s.notice.noticeMask.get p).getLsbD k.bit.val = true) ∧
    (s.attentionPin p = true ↔ s.readyPin = true ∧
      ∃ (n : AxisId) (k : NoticeKind), (s.notice.record p n).pending.getLsbD k.bit.val = true ∧
        (s.notice.noticeMask.get p).getLsbD k.bit.val = true)

/-! ## What every step keeps -/

/-- Every step keeps the profile store sound: counts count the references, what is in use is not EMPTY, entry 0 stays as built,
contents keep to their choices, and what can run in reverse fits (R4, R62, R85 to R92). -/
def Obligations.EveryStepKeepsTheProfileStoreSound : Prop :=
  ∀ s t : State, s.AxesSound → s.StoreSound → step s = .next t → t.StoreSound

/-- Every step keeps the axes sound: each state with its slot, pulse, queue and fault, a known position and the way that the
active segment leads within the limits, a configuration that CONFIGURE could have written (R2, R7, R9, R11, R13, R22, R30, R32,
R60, R63, R66, R78). -/
def Obligations.EveryStepKeepsTheAxesSound : Prop :=
  ∀ s t : State, s.AxesSound → step s = .next t → t.AxesSound

/-- Every step keeps the claim table, the error records and the notice records sound, and keeps the routing copy following the
claim table through the reports on their way (R122, R123, R135, R144, R147, R153, R171). -/
def Obligations.EveryStepKeepsClaimsPortsAndNoticesSound : Prop :=
  ∀ s t : State, step s = .next t →
    (s.ClaimsSound → t.ClaimsSound) ∧ (s.PortsSound → t.PortsSound) ∧ (s.NoticesSound → t.NoticesSound) ∧
    (s.RoutingFollows → t.RoutingFollows)

/-- The state after reset is sound in every respect, and holds the cold values of the manual where it names them: every axis
OFF with the cold configuration, no owner, entry 0 built in with 16 references, no notice, FRESH set (R6, R32, R88, R140, R157,
R175, R180). That the state after reset is the one with RST low, and READY therefore not asserted, is the model's choice (log
entry 1). -/
def Obligations.ResetIsSoundAndCold : Prop :=
  State.reset.AxesSound ∧ State.reset.StoreSound ∧ State.reset.ClaimsSound ∧ State.reset.PortsSound ∧
  State.reset.NoticesSound ∧ State.reset.RoutingFollows ∧ State.reset.readyPin = false ∧
  (∀ n, (State.reset.axis n).state = .off ∧ (State.reset.axis n).position = 0 ∧
    (State.reset.axis n).positionValid = false ∧ (State.reset.axis n).periodExpired = true ∧
    (State.reset.axis n).config =
      ⟨0, 65535, 0, 720, 0, 0, 2, 0, 2, 1, .stop⟩ ∧
    State.reset.entry n = ⟨none, 0, 0⟩) ∧
  State.reset.table.get 0 = ⟨.builtIn ⟨10, 4, false, 3, 8, 10, 0⟩, 16⟩ ∧
  (∀ k, k ≠ 0 → State.reset.table.get k = ⟨.empty, 0⟩) ∧
  ∀ p, (∀ n, State.reset.notice.record p n = ⟨0, 0, 0⟩) ∧ (State.reset.port p).fresh = true ∧
    (State.reset.port p).lastFrameGood = true ∧ (State.reset.port p).errorCounter = 0

end
end

