-- ==== Sys2Proof/Laws/Containers.lean ====
section
/-! SUPPORT. Reading after writing in the containers for two ports and for eight numbers. -/

namespace Sys2Proof

@[simp] theorem PerPort.get_set_same {α : Type} (v : PerPort α) (p : Port) (x : α) : (v.set p x).get p = x := by
  cases p <;> rfl

theorem PerPort.get_set_ne {α : Type} (v : PerPort α) {p q : Port} (h : q ≠ p) (x : α) :
    (v.set p x).get q = v.get q := by
  cases p <;> cases q <;> first | rfl | exact absurd rfl h

theorem PerPort.get_set {α : Type} (v : PerPort α) (p q : Port) (x : α) :
    (v.set p x).get q = if q = p then x else v.get q := by
  cases p <;> cases q <;> rfl

@[simp] theorem PerPort.get_map {α β : Type} (f : Port → α → β) (v : PerPort α) (p : Port) :
    (v.map f).get p = f p (v.get p) := by
  cases p <;> rfl

@[simp] theorem PerPort.get_same {α : Type} (x : α) (p : Port) : (PerPort.same x).get p = x := by
  cases p <;> rfl

@[simp] theorem PerPort.set_get {α : Type} (v : PerPort α) (p : Port) : v.set p (v.get p) = v := by
  cases p <;> rfl

@[simp] theorem PerPort.set_set {α : Type} (v : PerPort α) (p : Port) (x y : α) :
    (v.set p x).set p y = v.set p y := by
  cases p <;> rfl

theorem PerPort.ext_get {α : Type} {v w : PerPort α} (h : ∀ p, v.get p = w.get p) : v = w := by
  cases v; cases w
  have ha := h .a
  have hb := h .b
  simp only [PerPort.get] at ha hb
  subst ha hb
  rfl

@[simp] theorem Port.other_ne (p : Port) : p.other ≠ p := by cases p <;> decide

theorem Port.eq_or_other (p q : Port) : q = p ∨ q = p.other := by cases p <;> cases q <;> decide

@[simp] theorem Eight.get_set_same {α : Type} (v : Eight α) (n : Fin 8) (x : α) : (v.set n x).get n = x := by
  match n with
  | 0 => rfl
  | 1 => rfl
  | 2 => rfl
  | 3 => rfl
  | 4 => rfl
  | 5 => rfl
  | 6 => rfl
  | 7 => rfl

theorem Eight.get_set_ne {α : Type} (v : Eight α) {n m : Fin 8} (h : m ≠ n) (x : α) :
    (v.set n x).get m = v.get m := by
  match n, m with
  | 0, m => match m with | 0 => exact absurd rfl h | 1 => rfl | 2 => rfl | 3 => rfl | 4 => rfl | 5 => rfl | 6 => rfl | 7 => rfl
  | 1, m => match m with | 1 => exact absurd rfl h | 0 => rfl | 2 => rfl | 3 => rfl | 4 => rfl | 5 => rfl | 6 => rfl | 7 => rfl
  | 2, m => match m with | 2 => exact absurd rfl h | 0 => rfl | 1 => rfl | 3 => rfl | 4 => rfl | 5 => rfl | 6 => rfl | 7 => rfl
  | 3, m => match m with | 3 => exact absurd rfl h | 0 => rfl | 1 => rfl | 2 => rfl | 4 => rfl | 5 => rfl | 6 => rfl | 7 => rfl
  | 4, m => match m with | 4 => exact absurd rfl h | 0 => rfl | 1 => rfl | 2 => rfl | 3 => rfl | 5 => rfl | 6 => rfl | 7 => rfl
  | 5, m => match m with | 5 => exact absurd rfl h | 0 => rfl | 1 => rfl | 2 => rfl | 3 => rfl | 4 => rfl | 6 => rfl | 7 => rfl
  | 6, m => match m with | 6 => exact absurd rfl h | 0 => rfl | 1 => rfl | 2 => rfl | 3 => rfl | 4 => rfl | 5 => rfl | 7 => rfl
  | 7, m => match m with | 7 => exact absurd rfl h | 0 => rfl | 1 => rfl | 2 => rfl | 3 => rfl | 4 => rfl | 5 => rfl | 6 => rfl

theorem Eight.get_set {α : Type} (v : Eight α) (n m : Fin 8) (x : α) :
    (v.set n x).get m = if m = n then x else v.get m := by
  by_cases h : m = n
  · subst h; simp
  · simp [h, Eight.get_set_ne v h]

@[simp] theorem Eight.get_ofFn {α : Type} (f : Fin 8 → α) (n : Fin 8) : (Eight.ofFn f).get n = f n := by
  match n with
  | 0 => rfl
  | 1 => rfl
  | 2 => rfl
  | 3 => rfl
  | 4 => rfl
  | 5 => rfl
  | 6 => rfl
  | 7 => rfl

@[simp] theorem Eight.get_map {α β : Type} (f : Fin 8 → α → β) (v : Eight α) (n : Fin 8) :
    (v.map f).get n = f n (v.get n) := by
  simp [Eight.map]

@[simp] theorem Eight.get_same {α : Type} (x : α) (n : Fin 8) : (Eight.same x).get n = x := by
  simp [Eight.same]

theorem Eight.ext_get {α : Type} {v w : Eight α} (h : ∀ n, v.get n = w.get n) : v = w := by
  cases v; cases w
  have h0 := h 0; have h1 := h 1; have h2 := h 2; have h3 := h 3
  have h4 := h 4; have h5 := h 5; have h6 := h 6; have h7 := h 7
  simp only [Eight.get] at h0 h1 h2 h3 h4 h5 h6 h7
  subst h0 h1 h2 h3 h4 h5 h6 h7
  rfl

@[simp] theorem Eight.set_get {α : Type} (v : Eight α) (n : Fin 8) : v.set n (v.get n) = v := by
  apply Eight.ext_get
  intro m
  rw [Eight.get_set]
  split <;> simp_all

@[simp] theorem Eight.set_set {α : Type} (v : Eight α) (n : Fin 8) (x y : α) : (v.set n x).set n y = v.set n y := by
  apply Eight.ext_get
  intro m
  simp only [Eight.get_set]
  split <;> rfl

@[simp] theorem mem_allEight (n : Fin 8) : n ∈ allEight := by
  match n with
  | 0 => decide
  | 1 => decide
  | 2 => decide
  | 3 => decide
  | 4 => decide
  | 5 => decide
  | 6 => decide
  | 7 => decide

end Sys2Proof
end

