-- ==== Sys2Proof/Laws/State.lean ====
section
/-! SUPPORT. What each named update of the state leaves and what it writes, one lemma per field. -/

namespace Sys2Proof.Machine

variable (s : State) (n m : AxisId) (p q : Port)

/-! ### setAxis -/

@[simp] theorem State.setAxis_pending (a : Axis) : (s.setAxis n a).pending = s.pending := rfl

@[simp] theorem State.setAxis_start (a : Axis) : (s.setAxis n a).start = s.start := rfl

@[simp] theorem State.setAxis_ports (a : Axis) : (s.setAxis n a).ports = s.ports := rfl

@[simp] theorem State.setAxis_claim (a : Axis) : (s.setAxis n a).claim = s.claim := rfl

@[simp] theorem State.setAxis_store (a : Axis) : (s.setAxis n a).store = s.store := rfl

@[simp] theorem State.setAxis_notice (a : Axis) : (s.setAxis n a).notice = s.notice := rfl

@[simp] theorem State.setAxis_port (a : Axis) : (s.setAxis n a).port q = s.port q := rfl

@[simp] theorem State.setAxis_table (a : Axis) : (s.setAxis n a).table = s.table := rfl

@[simp] theorem State.setAxis_entry (a : Axis) : (s.setAxis n a).entry m = s.entry m := rfl

/-! ### setPort -/

@[simp] theorem State.setPort_pending (u : PortUnit) : (s.setPort p u).pending = s.pending := rfl

@[simp] theorem State.setPort_start (u : PortUnit) : (s.setPort p u).start = s.start := rfl

@[simp] theorem State.setPort_claim (u : PortUnit) : (s.setPort p u).claim = s.claim := rfl

@[simp] theorem State.setPort_store (u : PortUnit) : (s.setPort p u).store = s.store := rfl

@[simp] theorem State.setPort_notice (u : PortUnit) : (s.setPort p u).notice = s.notice := rfl

@[simp] theorem State.setPort_axes (u : PortUnit) : (s.setPort p u).axes = s.axes := rfl

@[simp] theorem State.setPort_axis (u : PortUnit) : (s.setPort p u).axis m = s.axis m := rfl

@[simp] theorem State.setPort_table (u : PortUnit) : (s.setPort p u).table = s.table := rfl

@[simp] theorem State.setPort_entry (u : PortUnit) : (s.setPort p u).entry m = s.entry m := rfl

/-! ### setEntry -/

@[simp] theorem State.setEntry_pending (e : ClaimEntry) : (s.setEntry n e).pending = s.pending := rfl

@[simp] theorem State.setEntry_start (e : ClaimEntry) : (s.setEntry n e).start = s.start := rfl

@[simp] theorem State.setEntry_ports (e : ClaimEntry) : (s.setEntry n e).ports = s.ports := rfl

@[simp] theorem State.setEntry_store (e : ClaimEntry) : (s.setEntry n e).store = s.store := rfl

@[simp] theorem State.setEntry_notice (e : ClaimEntry) : (s.setEntry n e).notice = s.notice := rfl

@[simp] theorem State.setEntry_axes (e : ClaimEntry) : (s.setEntry n e).axes = s.axes := rfl

@[simp] theorem State.setEntry_axis (e : ClaimEntry) : (s.setEntry n e).axis m = s.axis m := rfl

@[simp] theorem State.setEntry_port (e : ClaimEntry) : (s.setEntry n e).port q = s.port q := rfl

@[simp] theorem State.setEntry_table (e : ClaimEntry) : (s.setEntry n e).table = s.table := rfl

/-! ### setTable -/

@[simp] theorem State.setTable_pending (k : ProfileId) (e : Entry) : (s.setTable k e).pending = s.pending := rfl

@[simp] theorem State.setTable_start (k : ProfileId) (e : Entry) : (s.setTable k e).start = s.start := rfl

@[simp] theorem State.setTable_ports (k : ProfileId) (e : Entry) : (s.setTable k e).ports = s.ports := rfl

@[simp] theorem State.setTable_claim (k : ProfileId) (e : Entry) : (s.setTable k e).claim = s.claim := rfl

@[simp] theorem State.setTable_notice (k : ProfileId) (e : Entry) : (s.setTable k e).notice = s.notice := rfl

@[simp] theorem State.setTable_axes (k : ProfileId) (e : Entry) : (s.setTable k e).axes = s.axes := rfl

@[simp] theorem State.setTable_axis (k : ProfileId) (e : Entry) : (s.setTable k e).axis m = s.axis m := rfl

@[simp] theorem State.setTable_port (k : ProfileId) (e : Entry) : (s.setTable k e).port q = s.port q := rfl

@[simp] theorem State.setTable_entry (k : ProfileId) (e : Entry) : (s.setTable k e).entry m = s.entry m := rfl

/-! ### reply -/

@[simp] theorem State.reply_pending (r : Reply) : (s.reply p r).pending = s.pending := rfl

@[simp] theorem State.reply_start (r : Reply) : (s.reply p r).start = s.start := rfl

@[simp] theorem State.reply_claim (r : Reply) : (s.reply p r).claim = s.claim := rfl

@[simp] theorem State.reply_store (r : Reply) : (s.reply p r).store = s.store := rfl

@[simp] theorem State.reply_notice (r : Reply) : (s.reply p r).notice = s.notice := rfl

@[simp] theorem State.reply_axes (r : Reply) : (s.reply p r).axes = s.axes := rfl

@[simp] theorem State.reply_axis (r : Reply) : (s.reply p r).axis m = s.axis m := rfl

@[simp] theorem State.reply_table (r : Reply) : (s.reply p r).table = s.table := rfl

@[simp] theorem State.reply_entry (r : Reply) : (s.reply p r).entry m = s.entry m := rfl

/-! ### sendAxis -/

@[simp] theorem State.sendAxis_pending (x : AxisMsg) : (s.sendAxis n x).pending = s.pending := rfl

@[simp] theorem State.sendAxis_start (x : AxisMsg) : (s.sendAxis n x).start = s.start := rfl

@[simp] theorem State.sendAxis_ports (x : AxisMsg) : (s.sendAxis n x).ports = s.ports := rfl

@[simp] theorem State.sendAxis_claim (x : AxisMsg) : (s.sendAxis n x).claim = s.claim := rfl

@[simp] theorem State.sendAxis_store (x : AxisMsg) : (s.sendAxis n x).store = s.store := rfl

@[simp] theorem State.sendAxis_notice (x : AxisMsg) : (s.sendAxis n x).notice = s.notice := rfl

@[simp] theorem State.sendAxis_port (x : AxisMsg) : (s.sendAxis n x).port q = s.port q := rfl

@[simp] theorem State.sendAxis_table (x : AxisMsg) : (s.sendAxis n x).table = s.table := rfl

@[simp] theorem State.sendAxis_entry (x : AxisMsg) : (s.sendAxis n x).entry m = s.entry m := rfl

/-! ### sendNotice -/

@[simp] theorem State.sendNotice_pending (xs : List NoticeMsg) : (s.sendNotice xs).pending = s.pending := rfl

@[simp] theorem State.sendNotice_start (xs : List NoticeMsg) : (s.sendNotice xs).start = s.start := rfl

@[simp] theorem State.sendNotice_ports (xs : List NoticeMsg) : (s.sendNotice xs).ports = s.ports := rfl

@[simp] theorem State.sendNotice_store (xs : List NoticeMsg) : (s.sendNotice xs).store = s.store := rfl

@[simp] theorem State.sendNotice_notice (xs : List NoticeMsg) : (s.sendNotice xs).notice = s.notice := rfl

@[simp] theorem State.sendNotice_axes (xs : List NoticeMsg) : (s.sendNotice xs).axes = s.axes := rfl

@[simp] theorem State.sendNotice_axis (xs : List NoticeMsg) : (s.sendNotice xs).axis m = s.axis m := rfl

@[simp] theorem State.sendNotice_port (xs : List NoticeMsg) : (s.sendNotice xs).port q = s.port q := rfl

@[simp] theorem State.sendNotice_table (xs : List NoticeMsg) : (s.sendNotice xs).table = s.table := rfl

/-! ### claimTaken -/

@[simp] theorem State.claimTaken_pending : (s.claimTaken p).pending = s.pending := rfl

@[simp] theorem State.claimTaken_start : (s.claimTaken p).start = s.start := rfl

@[simp] theorem State.claimTaken_ports : (s.claimTaken p).ports = s.ports := rfl

@[simp] theorem State.claimTaken_store : (s.claimTaken p).store = s.store := rfl

@[simp] theorem State.claimTaken_notice : (s.claimTaken p).notice = s.notice := rfl

@[simp] theorem State.claimTaken_axes : (s.claimTaken p).axes = s.axes := rfl

@[simp] theorem State.claimTaken_axis : (s.claimTaken p).axis m = s.axis m := rfl

@[simp] theorem State.claimTaken_port : (s.claimTaken p).port q = s.port q := rfl

@[simp] theorem State.claimTaken_table : (s.claimTaken p).table = s.table := rfl

/-! ### takeRef -/

@[simp] theorem State.takeRef_pending (k : ProfileId) : (s.takeRef k).pending = s.pending := rfl

@[simp] theorem State.takeRef_start (k : ProfileId) : (s.takeRef k).start = s.start := rfl

@[simp] theorem State.takeRef_ports (k : ProfileId) : (s.takeRef k).ports = s.ports := rfl

@[simp] theorem State.takeRef_claim (k : ProfileId) : (s.takeRef k).claim = s.claim := rfl

@[simp] theorem State.takeRef_notice (k : ProfileId) : (s.takeRef k).notice = s.notice := rfl

@[simp] theorem State.takeRef_axes (k : ProfileId) : (s.takeRef k).axes = s.axes := rfl

@[simp] theorem State.takeRef_axis (k : ProfileId) : (s.takeRef k).axis m = s.axis m := rfl

@[simp] theorem State.takeRef_port (k : ProfileId) : (s.takeRef k).port q = s.port q := rfl

@[simp] theorem State.takeRef_entry (k : ProfileId) : (s.takeRef k).entry m = s.entry m := rfl

/-! ### giveRef -/

@[simp] theorem State.giveRef_pending (k : ProfileId) : (s.giveRef k).pending = s.pending := rfl

@[simp] theorem State.giveRef_start (k : ProfileId) : (s.giveRef k).start = s.start := rfl

@[simp] theorem State.giveRef_ports (k : ProfileId) : (s.giveRef k).ports = s.ports := rfl

@[simp] theorem State.giveRef_claim (k : ProfileId) : (s.giveRef k).claim = s.claim := rfl

@[simp] theorem State.giveRef_notice (k : ProfileId) : (s.giveRef k).notice = s.notice := rfl

@[simp] theorem State.giveRef_axes (k : ProfileId) : (s.giveRef k).axes = s.axes := rfl

@[simp] theorem State.giveRef_axis (k : ProfileId) : (s.giveRef k).axis m = s.axis m := rfl

@[simp] theorem State.giveRef_port (k : ProfileId) : (s.giveRef k).port q = s.port q := rfl

@[simp] theorem State.giveRef_entry (k : ProfileId) : (s.giveRef k).entry m = s.entry m := rfl

/-! ### renew -/

@[simp] theorem State.renew_pending : (s.renew n).pending = s.pending := rfl

@[simp] theorem State.renew_start : (s.renew n).start = s.start := rfl

@[simp] theorem State.renew_ports : (s.renew n).ports = s.ports := rfl

@[simp] theorem State.renew_store : (s.renew n).store = s.store := rfl

@[simp] theorem State.renew_notice : (s.renew n).notice = s.notice := rfl

@[simp] theorem State.renew_axes : (s.renew n).axes = s.axes := rfl

@[simp] theorem State.renew_axis : (s.renew n).axis m = s.axis m := rfl

@[simp] theorem State.renew_port : (s.renew n).port q = s.port q := rfl

@[simp] theorem State.renew_table : (s.renew n).table = s.table := rfl

/-! ### grant -/

@[simp] theorem State.grant_pending (lease : Byte) : (s.grant p n lease).pending = s.pending := rfl

@[simp] theorem State.grant_start (lease : Byte) : (s.grant p n lease).start = s.start := rfl

@[simp] theorem State.grant_ports (lease : Byte) : (s.grant p n lease).ports = s.ports := rfl

@[simp] theorem State.grant_store (lease : Byte) : (s.grant p n lease).store = s.store := rfl

@[simp] theorem State.grant_notice (lease : Byte) : (s.grant p n lease).notice = s.notice := rfl

@[simp] theorem State.grant_axes (lease : Byte) : (s.grant p n lease).axes = s.axes := rfl

@[simp] theorem State.grant_axis (lease : Byte) : (s.grant p n lease).axis m = s.axis m := rfl

@[simp] theorem State.grant_port (lease : Byte) : (s.grant p n lease).port q = s.port q := rfl

@[simp] theorem State.grant_table (lease : Byte) : (s.grant p n lease).table = s.table := rfl

/-! ### endClaim -/

@[simp] theorem State.endClaim_pending : (s.endClaim n).pending = s.pending := rfl

@[simp] theorem State.endClaim_start : (s.endClaim n).start = s.start := rfl

@[simp] theorem State.endClaim_ports : (s.endClaim n).ports = s.ports := rfl

@[simp] theorem State.endClaim_store : (s.endClaim n).store = s.store := rfl

@[simp] theorem State.endClaim_notice : (s.endClaim n).notice = s.notice := rfl

@[simp] theorem State.endClaim_axes : (s.endClaim n).axes = s.axes := rfl

@[simp] theorem State.endClaim_axis : (s.endClaim n).axis m = s.axis m := rfl

@[simp] theorem State.endClaim_port : (s.endClaim n).port q = s.port q := rfl

@[simp] theorem State.endClaim_table : (s.endClaim n).table = s.table := rfl

/-! ### renewAll -/

@[simp] theorem State.renewAll_pending (f : AxisId → Bool) : (s.renewAll f).pending = s.pending := rfl

@[simp] theorem State.renewAll_start (f : AxisId → Bool) : (s.renewAll f).start = s.start := rfl

@[simp] theorem State.renewAll_ports (f : AxisId → Bool) : (s.renewAll f).ports = s.ports := rfl

@[simp] theorem State.renewAll_store (f : AxisId → Bool) : (s.renewAll f).store = s.store := rfl

@[simp] theorem State.renewAll_notice (f : AxisId → Bool) : (s.renewAll f).notice = s.notice := rfl

@[simp] theorem State.renewAll_axes (f : AxisId → Bool) : (s.renewAll f).axes = s.axes := rfl

@[simp] theorem State.renewAll_axis (f : AxisId → Bool) : (s.renewAll f).axis m = s.axis m := rfl

@[simp] theorem State.renewAll_port (f : AxisId → Bool) : (s.renewAll f).port q = s.port q := rfl

@[simp] theorem State.renewAll_table (f : AxisId → Bool) : (s.renewAll f).table = s.table := rfl

/-! ### endClaims -/

@[simp] theorem State.endClaims_pending (f : AxisId → Bool) (b : Bool) : (s.endClaims f b).pending = s.pending := rfl

@[simp] theorem State.endClaims_start (f : AxisId → Bool) (b : Bool) : (s.endClaims f b).start = s.start := rfl

@[simp] theorem State.endClaims_ports (f : AxisId → Bool) (b : Bool) : (s.endClaims f b).ports = s.ports := rfl

@[simp] theorem State.endClaims_store (f : AxisId → Bool) (b : Bool) : (s.endClaims f b).store = s.store := rfl

@[simp] theorem State.endClaims_notice (f : AxisId → Bool) (b : Bool) : (s.endClaims f b).notice = s.notice := rfl

@[simp] theorem State.endClaims_axes (f : AxisId → Bool) (b : Bool) : (s.endClaims f b).axes = s.axes := rfl

@[simp] theorem State.endClaims_axis (f : AxisId → Bool) (b : Bool) : (s.endClaims f b).axis m = s.axis m := rfl

@[simp] theorem State.endClaims_port (f : AxisId → Bool) (b : Bool) : (s.endClaims f b).port q = s.port q := rfl

@[simp] theorem State.endClaims_table (f : AxisId → Bool) (b : Bool) : (s.endClaims f b).table = s.table := rfl

/-! ### sendAxes -/

@[simp] theorem State.sendAxes_pending (f : AxisId → Bool) (x : AxisMsg) : (s.sendAxes f x).pending = s.pending := rfl

@[simp] theorem State.sendAxes_start (f : AxisId → Bool) (x : AxisMsg) : (s.sendAxes f x).start = s.start := rfl

@[simp] theorem State.sendAxes_ports (f : AxisId → Bool) (x : AxisMsg) : (s.sendAxes f x).ports = s.ports := rfl

@[simp] theorem State.sendAxes_claim (f : AxisId → Bool) (x : AxisMsg) : (s.sendAxes f x).claim = s.claim := rfl

@[simp] theorem State.sendAxes_store (f : AxisId → Bool) (x : AxisMsg) : (s.sendAxes f x).store = s.store := rfl

@[simp] theorem State.sendAxes_notice (f : AxisId → Bool) (x : AxisMsg) : (s.sendAxes f x).notice = s.notice := rfl

@[simp] theorem State.sendAxes_port (f : AxisId → Bool) (x : AxisMsg) : (s.sendAxes f x).port q = s.port q := rfl

@[simp] theorem State.sendAxes_table (f : AxisId → Bool) (x : AxisMsg) : (s.sendAxes f x).table = s.table := rfl

@[simp] theorem State.sendAxes_entry (f : AxisId → Bool) (x : AxisMsg) : (s.sendAxes f x).entry m = s.entry m := rfl

/-! ### advance -/

@[simp] theorem State.advance_pending (d : Nat) : (s.advance d).pending = s.pending := rfl

@[simp] theorem State.advance_ports (d : Nat) : (s.advance d).ports = s.ports := rfl

@[simp] theorem State.advance_store (d : Nat) : (s.advance d).store = s.store := rfl

@[simp] theorem State.advance_notice (d : Nat) : (s.advance d).notice = s.notice := rfl

@[simp] theorem State.advance_port (d : Nat) : (s.advance d).port q = s.port q := rfl

@[simp] theorem State.advance_table (d : Nat) : (s.advance d).table = s.table := rfl

/-! ### What the updates write -/

@[simp] theorem State.setAxis_axis_same (a : Axis) : (s.setAxis n a).axis n = a := by
  simp [State.setAxis, State.axis]

theorem State.setAxis_axis (a : Axis) : (s.setAxis n a).axis m = if m = n then a else s.axis m := by
  simp [State.setAxis, State.axis, Eight.get_set]

theorem State.setAxis_axis_ne (a : Axis) (h : m ≠ n) : (s.setAxis n a).axis m = s.axis m := by
  simp [State.setAxis_axis, h]

@[simp] theorem State.setPort_port_same (u : PortUnit) : (s.setPort p u).port p = u := by
  simp [State.setPort, State.port]

theorem State.setPort_port (u : PortUnit) : (s.setPort p u).port q = if q = p then u else s.port q := by
  simp [State.setPort, State.port, PerPort.get_set]

theorem State.setPort_port_ne (u : PortUnit) (h : q ≠ p) : (s.setPort p u).port q = s.port q := by
  simp [State.setPort_port, h]

@[simp] theorem State.setEntry_entry_same (e : ClaimEntry) : (s.setEntry n e).entry n = e := by
  simp [State.setEntry, State.entry]

theorem State.setEntry_entry (e : ClaimEntry) : (s.setEntry n e).entry m = if m = n then e else s.entry m := by
  simp [State.setEntry, State.entry, Eight.get_set]

@[simp] theorem State.setEntry_toNotice (e : ClaimEntry) : (s.setEntry n e).claim.toNotice = s.claim.toNotice := rfl

@[simp] theorem State.setEntry_inbox (e : ClaimEntry) : (s.setEntry n e).claim.inbox = s.claim.inbox := rfl

@[simp] theorem State.sendNotice_toNotice (xs : List NoticeMsg) :
    (s.sendNotice xs).claim.toNotice = s.claim.toNotice ++ xs := rfl

@[simp] theorem State.sendNotice_inbox (xs : List NoticeMsg) : (s.sendNotice xs).claim.inbox = s.claim.inbox := rfl

@[simp] theorem State.sendNotice_entry (xs : List NoticeMsg) : (s.sendNotice xs).entry m = s.entry m := rfl

@[simp] theorem State.claimTaken_entry : (s.claimTaken p).entry m = s.entry m := rfl

@[simp] theorem State.claimTaken_toNotice : (s.claimTaken p).claim.toNotice = s.claim.toNotice := rfl

@[simp] theorem State.claimTaken_inbox : (s.claimTaken p).claim.inbox = s.claim.inbox.set p none := rfl

theorem State.setTable_table (k j : ProfileId) (e : Entry) :
    (s.setTable k e).table.get j = if j = k then e else s.table.get j := by
  simp [State.setTable, State.table, Eight.get_set]

@[simp] theorem State.setTable_inbox (k : ProfileId) (e : Entry) : (s.setTable k e).store.inbox = s.store.inbox := rfl

theorem State.reply_port (r : Reply) :
    (s.reply p r).port q = if q = p then { s.port p with replyIn := some r } else s.port q := by
  simp [State.reply, State.setPort_port]

@[simp] theorem State.reply_port_same (r : Reply) : (s.reply p r).port p = { s.port p with replyIn := some r } := by
  simp [State.reply]

theorem State.sendAxis_axis (x : AxisMsg) :
    (s.sendAxis n x).axis m =
      if m = n then { s.axis n with fromClaim := (s.axis n).fromClaim ++ [x] } else s.axis m := by
  simp [State.sendAxis, State.setAxis_axis]

theorem State.renewAll_entry (f : AxisId → Bool) :
    (s.renewAll f).entry m = if f m then (s.entry m).renewed else s.entry m := by
  simp [State.renewAll, State.entry]

theorem State.endClaims_entry (f : AxisId → Bool) (b : Bool) :
    (s.endClaims f b).entry m = if f m then ClaimEntry.free else s.entry m := by
  simp [State.endClaims, State.entry, State.sendNotice]

theorem State.sendAxes_axis (f : AxisId → Bool) (x : AxisMsg) :
    (s.sendAxes f x).axis m =
      if f m then { s.axis m with fromClaim := (s.axis m).fromClaim ++ [x] } else s.axis m := by
  simp [State.sendAxes, State.axis]

@[simp] theorem State.advance_axis (d : Nat) : (s.advance d).axis m = (s.axis m).advance d := by
  simp [State.advance, State.axis]

@[simp] theorem State.advance_entry (d : Nat) : (s.advance d).entry m = (s.entry m).advance d := by
  simp [State.advance, State.entry]

@[simp] theorem State.advance_start (d : Nat) : (s.advance d).start = s.start.advance d := rfl

@[simp] theorem ClaimEntry.advance_owner (d : Nat) (e : ClaimEntry) : (e.advance d).owner = e.owner := rfl

@[simp] theorem ClaimEntry.advance_leasePeriod (d : Nat) (e : ClaimEntry) :
    (e.advance d).leasePeriod = e.leasePeriod := rfl

@[simp] theorem ClaimEntry.advance_leaseLeft (d : Nat) (e : ClaimEntry) :
    (e.advance d).leaseLeft = e.leaseLeft - d := rfl

/-! ### Updates of an axis controller -/

variable (a : Axis)

@[simp] theorem Axis.post_config (k : NoticeKind) (t : Byte) : (a.post k t).config = a.config := rfl

@[simp] theorem Axis.post_state (k : NoticeKind) (t : Byte) : (a.post k t).state = a.state := rfl

@[simp] theorem Axis.post_position (k : NoticeKind) (t : Byte) : (a.post k t).position = a.position := rfl

@[simp] theorem Axis.post_positionValid (k : NoticeKind) (t : Byte) : (a.post k t).positionValid = a.positionValid := rfl

@[simp] theorem Axis.post_phase (k : NoticeKind) (t : Byte) : (a.post k t).phase = a.phase := rfl

@[simp] theorem Axis.post_pauseFlag (k : NoticeKind) (t : Byte) : (a.post k t).pauseFlag = a.pauseFlag := rfl

@[simp] theorem Axis.post_faultKind (k : NoticeKind) (t : Byte) : (a.post k t).faultKind = a.faultKind := rfl

@[simp] theorem Axis.post_periodExpired (k : NoticeKind) (t : Byte) : (a.post k t).periodExpired = a.periodExpired := rfl

@[simp] theorem Axis.post_truncReported (k : NoticeKind) (t : Byte) : (a.post k t).truncReported = a.truncReported := rfl

@[simp] theorem Axis.post_haltSeen (k : NoticeKind) (t : Byte) : (a.post k t).haltSeen = a.haltSeen := rfl

@[simp] theorem Axis.post_periodLeft (k : NoticeKind) (t : Byte) : (a.post k t).periodLeft = a.periodLeft := rfl

@[simp] theorem Axis.post_dwellMark (k : NoticeKind) (t : Byte) : (a.post k t).dwellMark = a.dwellMark := rfl

@[simp] theorem Axis.post_waiting (k : NoticeKind) (t : Byte) : (a.post k t).waiting = a.waiting := rfl

@[simp] theorem Axis.post_slot (k : NoticeKind) (t : Byte) : (a.post k t).slot = a.slot := rfl

@[simp] theorem Axis.post_pulse (k : NoticeKind) (t : Byte) : (a.post k t).pulse = a.pulse := rfl

@[simp] theorem Axis.post_tripped (k : NoticeKind) (t : Byte) : (a.post k t).tripped = a.tripped := rfl

@[simp] theorem Axis.post_fromClaim (k : NoticeKind) (t : Byte) : (a.post k t).fromClaim = a.fromClaim := rfl

@[simp] theorem Axis.post_reads (k : NoticeKind) (t : Byte) : (a.post k t).reads = a.reads := rfl

@[simp] theorem Axis.post_haltIn (k : NoticeKind) (t : Byte) : (a.post k t).haltIn = a.haltIn := rfl

@[simp] theorem Axis.post_restartIn (k : NoticeKind) (t : Byte) : (a.post k t).restartIn = a.restartIn := rfl

@[simp] theorem Axis.post_busy (k : NoticeKind) (t : Byte) : (a.post k t).busy = a.busy := rfl

@[simp] theorem Axis.post_posts (k : NoticeKind) (t : Byte) : (a.post k t).posts = a.posts ++ [⟨k, t⟩] := rfl

@[simp] theorem Axis.taken_config : a.taken.config = a.config := rfl

@[simp] theorem Axis.taken_state : a.taken.state = a.state := rfl

@[simp] theorem Axis.taken_position : a.taken.position = a.position := rfl

@[simp] theorem Axis.taken_positionValid : a.taken.positionValid = a.positionValid := rfl

@[simp] theorem Axis.taken_phase : a.taken.phase = a.phase := rfl

@[simp] theorem Axis.taken_pauseFlag : a.taken.pauseFlag = a.pauseFlag := rfl

@[simp] theorem Axis.taken_faultKind : a.taken.faultKind = a.faultKind := rfl

@[simp] theorem Axis.taken_periodExpired : a.taken.periodExpired = a.periodExpired := rfl

@[simp] theorem Axis.taken_truncReported : a.taken.truncReported = a.truncReported := rfl

@[simp] theorem Axis.taken_haltSeen : a.taken.haltSeen = a.haltSeen := rfl

@[simp] theorem Axis.taken_periodLeft : a.taken.periodLeft = a.periodLeft := rfl

@[simp] theorem Axis.taken_dwellMark : a.taken.dwellMark = a.dwellMark := rfl

@[simp] theorem Axis.taken_waiting : a.taken.waiting = a.waiting := rfl

@[simp] theorem Axis.taken_slot : a.taken.slot = a.slot := rfl

@[simp] theorem Axis.taken_pulse : a.taken.pulse = a.pulse := rfl

@[simp] theorem Axis.taken_tripped : a.taken.tripped = a.tripped := rfl

@[simp] theorem Axis.taken_fromClaim : a.taken.fromClaim = a.fromClaim.tail := rfl

@[simp] theorem Axis.taken_reads : a.taken.reads = a.reads := rfl

@[simp] theorem Axis.taken_haltIn : a.taken.haltIn = a.haltIn := rfl

@[simp] theorem Axis.taken_restartIn : a.taken.restartIn = a.restartIn := rfl

@[simp] theorem Axis.taken_busy : a.taken.busy = a.busy := rfl

@[simp] theorem Axis.taken_posts : a.taken.posts = a.posts := rfl

@[simp] theorem Axis.clearSlot_config : a.clearSlot.config = a.config := rfl

@[simp] theorem Axis.clearSlot_state : a.clearSlot.state = a.state := rfl

@[simp] theorem Axis.clearSlot_position : a.clearSlot.position = a.position := rfl

@[simp] theorem Axis.clearSlot_positionValid : a.clearSlot.positionValid = a.positionValid := rfl

@[simp] theorem Axis.clearSlot_phase : a.clearSlot.phase = a.phase := rfl

@[simp] theorem Axis.clearSlot_pauseFlag : a.clearSlot.pauseFlag = a.pauseFlag := rfl

@[simp] theorem Axis.clearSlot_faultKind : a.clearSlot.faultKind = a.faultKind := rfl

@[simp] theorem Axis.clearSlot_periodExpired : a.clearSlot.periodExpired = a.periodExpired := rfl

@[simp] theorem Axis.clearSlot_truncReported : a.clearSlot.truncReported = false := rfl

@[simp] theorem Axis.clearSlot_haltSeen : a.clearSlot.haltSeen = a.haltSeen := rfl

@[simp] theorem Axis.clearSlot_periodLeft : a.clearSlot.periodLeft = a.periodLeft := rfl

@[simp] theorem Axis.clearSlot_dwellMark : a.clearSlot.dwellMark = false := rfl

@[simp] theorem Axis.clearSlot_waiting : a.clearSlot.waiting = a.waiting := rfl

@[simp] theorem Axis.clearSlot_slot : a.clearSlot.slot = none := rfl

@[simp] theorem Axis.clearSlot_pulse : a.clearSlot.pulse = a.pulse := rfl

@[simp] theorem Axis.clearSlot_tripped : a.clearSlot.tripped = a.tripped := rfl

@[simp] theorem Axis.clearSlot_fromClaim : a.clearSlot.fromClaim = a.fromClaim := rfl

@[simp] theorem Axis.clearSlot_reads : a.clearSlot.reads = a.reads := rfl

@[simp] theorem Axis.clearSlot_haltIn : a.clearSlot.haltIn = a.haltIn := rfl

@[simp] theorem Axis.clearSlot_restartIn : a.clearSlot.restartIn = a.restartIn := rfl

@[simp] theorem Axis.clearSlot_busy : a.clearSlot.busy = a.busy := rfl

@[simp] theorem Axis.clearSlot_posts : a.clearSlot.posts = a.posts := rfl

@[simp] theorem Axis.startTimer_config (r : RateCode) : (a.startTimer r).config = a.config := rfl

@[simp] theorem Axis.startTimer_state (r : RateCode) : (a.startTimer r).state = a.state := rfl

@[simp] theorem Axis.startTimer_position (r : RateCode) : (a.startTimer r).position = a.position := rfl

@[simp] theorem Axis.startTimer_positionValid (r : RateCode) : (a.startTimer r).positionValid = a.positionValid := rfl

@[simp] theorem Axis.startTimer_phase (r : RateCode) : (a.startTimer r).phase = a.phase := rfl

@[simp] theorem Axis.startTimer_pauseFlag (r : RateCode) : (a.startTimer r).pauseFlag = a.pauseFlag := rfl

@[simp] theorem Axis.startTimer_faultKind (r : RateCode) : (a.startTimer r).faultKind = a.faultKind := rfl

@[simp] theorem Axis.startTimer_periodExpired (r : RateCode) : (a.startTimer r).periodExpired = false := rfl

@[simp] theorem Axis.startTimer_truncReported (r : RateCode) : (a.startTimer r).truncReported = a.truncReported := rfl

@[simp] theorem Axis.startTimer_haltSeen (r : RateCode) : (a.startTimer r).haltSeen = a.haltSeen := rfl

@[simp] theorem Axis.startTimer_periodLeft (r : RateCode) : (a.startTimer r).periodLeft = period r := rfl

@[simp] theorem Axis.startTimer_dwellMark (r : RateCode) : (a.startTimer r).dwellMark = a.dwellMark := rfl

@[simp] theorem Axis.startTimer_waiting (r : RateCode) : (a.startTimer r).waiting = a.waiting := rfl

@[simp] theorem Axis.startTimer_slot (r : RateCode) : (a.startTimer r).slot = a.slot := rfl

@[simp] theorem Axis.startTimer_pulse (r : RateCode) : (a.startTimer r).pulse = a.pulse := rfl

@[simp] theorem Axis.startTimer_tripped (r : RateCode) : (a.startTimer r).tripped = a.tripped := rfl

@[simp] theorem Axis.startTimer_fromClaim (r : RateCode) : (a.startTimer r).fromClaim = a.fromClaim := rfl

@[simp] theorem Axis.startTimer_reads (r : RateCode) : (a.startTimer r).reads = a.reads := rfl

@[simp] theorem Axis.startTimer_haltIn (r : RateCode) : (a.startTimer r).haltIn = a.haltIn := rfl

@[simp] theorem Axis.startTimer_restartIn (r : RateCode) : (a.startTimer r).restartIn = a.restartIn := rfl

@[simp] theorem Axis.startTimer_busy (r : RateCode) : (a.startTimer r).busy = a.busy := rfl

@[simp] theorem Axis.startTimer_posts (r : RateCode) : (a.startTimer r).posts = a.posts := rfl

@[simp] theorem Axis.advance_config (d : Nat) : (a.advance d).config = a.config := rfl

@[simp] theorem Axis.advance_state (d : Nat) : (a.advance d).state = a.state := rfl

@[simp] theorem Axis.advance_position (d : Nat) : (a.advance d).position = a.position := rfl

@[simp] theorem Axis.advance_positionValid (d : Nat) : (a.advance d).positionValid = a.positionValid := rfl

@[simp] theorem Axis.advance_phase (d : Nat) : (a.advance d).phase = a.phase := rfl

@[simp] theorem Axis.advance_pauseFlag (d : Nat) : (a.advance d).pauseFlag = a.pauseFlag := rfl

@[simp] theorem Axis.advance_faultKind (d : Nat) : (a.advance d).faultKind = a.faultKind := rfl

@[simp] theorem Axis.advance_periodExpired (d : Nat) : (a.advance d).periodExpired = a.periodExpired := rfl

@[simp] theorem Axis.advance_truncReported (d : Nat) : (a.advance d).truncReported = a.truncReported := rfl

@[simp] theorem Axis.advance_haltSeen (d : Nat) : (a.advance d).haltSeen = a.haltSeen := rfl

@[simp] theorem Axis.advance_periodLeft (d : Nat) : (a.advance d).periodLeft = a.periodLeft - d := rfl

@[simp] theorem Axis.advance_dwellMark (d : Nat) : (a.advance d).dwellMark = a.dwellMark := rfl

@[simp] theorem Axis.advance_waiting (d : Nat) : (a.advance d).waiting = a.waiting := rfl

@[simp] theorem Axis.advance_slot (d : Nat) : (a.advance d).slot = a.slot := rfl

@[simp] theorem Axis.advance_pulse (d : Nat) : (a.advance d).pulse =
    if a.tripped then a.pulse else a.pulse.map (Pulse.advance d) := rfl

@[simp] theorem Axis.advance_tripped (d : Nat) : (a.advance d).tripped = a.tripped := rfl

@[simp] theorem Axis.advance_fromClaim (d : Nat) : (a.advance d).fromClaim = a.fromClaim := rfl

@[simp] theorem Axis.advance_reads (d : Nat) : (a.advance d).reads = a.reads := rfl

@[simp] theorem Axis.advance_haltIn (d : Nat) : (a.advance d).haltIn = a.haltIn := rfl

@[simp] theorem Axis.advance_restartIn (d : Nat) : (a.advance d).restartIn = a.restartIn := rfl

@[simp] theorem Axis.advance_busy (d : Nat) : (a.advance d).busy = a.busy := rfl

@[simp] theorem Axis.advance_posts (d : Nat) : (a.advance d).posts = a.posts := rfl

end Sys2Proof.Machine
end

