-- ==== Sys2Proof/Laws/Messages.lean ====
section
/-! SUPPORT. What the operations that carry a message from one block to another can do: they reach the mailbox they are
sent to, and nothing else. -/

namespace Sys2Proof.Machine

variable (s : State) (n m : AxisId) (p q : Port)

/-! ### Postings on their way -/

theorem NoticeMsg.isPosting_iff (m : NoticeMsg) : m.isPosting = true ↔ ∃ k n p, m = .posting k n p := by
  cases m <;> simp [NoticeMsg.isPosting]

/-- No posting waits exactly when no axis controller and no message of the claim unit holds one. -/
theorem State.postingWaits_eq_false_iff :
    s.postingWaits = false ↔
      (∀ k n p, NoticeMsg.posting k n p ∉ s.claim.toNotice) ∧ ∀ n, (s.axis n).posts = [] := by
  rw [State.postingWaits, Bool.or_eq_false_iff, List.any_eq_false, List.any_eq_false]
  refine and_congr ⟨fun h k n p hm => h _ hm rfl, fun h m hm hp => ?_⟩ (by simp)
  obtain ⟨k, n, p, rfl⟩ := (NoticeMsg.isPosting_iff m).1 hp
  exact h k n p hm

/-! ### One axis, one port -/

theorem State.axis_setAxis (a : Axis) : (s.setAxis n a).axis m = if m = n then a else s.axis m :=
  Eight.get_set s.axes n m a

@[simp] theorem State.axis_setAxis_same (a : Axis) : (s.setAxis n a).axis n = a := Eight.get_set_same s.axes n a

theorem State.port_setPort (u : PortUnit) : (s.setPort p u).port q = if q = p then u else s.port q :=
  PerPort.get_set s.ports p q u

@[simp] theorem State.port_setPort_same (u : PortUnit) : (s.setPort p u).port p = u := PerPort.get_set_same s.ports p u

theorem State.entry_setEntry (e : ClaimEntry) : (s.setEntry n e).entry m = if m = n then e else s.entry m :=
  Eight.get_set s.claim.entries n m e

theorem State.port_reply (r : Reply) :
    (s.reply p r).port q = { s.port q with replyIn := if q = p then some r else (s.port q).replyIn } := by
  unfold State.reply
  rw [State.port_setPort]
  split
  · rename_i h; subst h; rfl
  · rfl

theorem State.axis_sendAxis (x : AxisMsg) :
    (s.sendAxis n x).axis m =
      { s.axis m with fromClaim := if m = n then (s.axis m).fromClaim ++ [x] else (s.axis m).fromClaim } := by
  unfold State.sendAxis
  rw [State.axis_setAxis]
  split
  · rename_i h; subst h; rfl
  · rfl

theorem State.axis_sendAxes (f : AxisId → Bool) (x : AxisMsg) :
    (s.sendAxes f x).axis m =
      { s.axis m with fromClaim := if f m then (s.axis m).fromClaim ++ [x] else (s.axis m).fromClaim } := by
  unfold State.sendAxes State.axis
  rw [Eight.get_map]
  split <;> rfl

theorem State.axis_advance (d : Nat) : (s.advance d).axis m = (s.axis m).advance d := by
  unfold State.advance State.axis
  rw [Eight.get_map]

theorem State.entry_advance (d : Nat) : (s.advance d).entry m = (s.entry m).advance d := by
  unfold State.advance State.entry
  rw [Eight.get_map]

theorem State.entry_renewAll (f : AxisId → Bool) :
    (s.renewAll f).entry m = if f m then (s.entry m).renewed else s.entry m := by
  unfold State.renewAll State.entry
  rw [Eight.get_map]

theorem State.entry_endClaims (f : AxisId → Bool) (b : Bool) :
    (s.endClaims f b).entry m = if f m then ClaimEntry.free else s.entry m := by
  unfold State.endClaims State.entry State.sendNotice
  rw [Eight.get_map]

theorem State.table_setTable (k j : ProfileId) (e : Entry) :
    (s.setTable k e).table.get j = if j = k then e else s.table.get j := Eight.get_set s.store.entries k j e

/-! ### What an axis controller sends -/

/-- What a port unit holds after axis controller `n` has sent it something. -/
def PortUnit.delivered (n : AxisId) (p : Port) (u : PortUnit) (x : Sent) : PortUnit :=
  match x with
  | .reply q r => if p = q then { u with replyIn := some r } else u
  | .answerStart q started => if p = q then { u with startAnswers := u.startAnswers.set n (some started) } else u
  | .answerDetach q => if p = q then { u with detachAnswers := u.detachAnswers.set n true } else u
  | .quiet => u

theorem State.deliver_port (x : Sent) : (s.deliver n x).port q = (s.port q).delivered n q x := by
  cases x <;> simp only [State.deliver, PortUnit.delivered, State.reply, State.port_setPort]
  all_goals first
    | rfl
    | (split
       · rename_i h; subst h; rfl
       · rfl)

theorem State.deliver_start (x : Sent) :
    (s.deliver n x).start =
      { s.start with quietSent := if x = .quiet then s.start.quietSent.set n true else s.start.quietSent } := by
  cases x <;> simp [State.deliver]

@[simp] theorem State.deliver_pending (x : Sent) : (s.deliver n x).pending = s.pending := by cases x <;> rfl

@[simp] theorem State.deliver_claim (x : Sent) : (s.deliver n x).claim = s.claim := by cases x <;> rfl

@[simp] theorem State.deliver_store (x : Sent) : (s.deliver n x).store = s.store := by cases x <;> rfl

@[simp] theorem State.deliver_notice (x : Sent) : (s.deliver n x).notice = s.notice := by cases x <;> rfl

@[simp] theorem State.deliver_axes (x : Sent) : (s.deliver n x).axes = s.axes := by cases x <;> rfl

/-- An axis controller's event changes that axis and reaches the ports and start-up control alone. -/
theorem State.finish_frame (r : Axis × List Sent) :
    (s.finish n r).pending = s.pending ∧ (s.finish n r).claim = s.claim ∧ (s.finish n r).store = s.store ∧
      (s.finish n r).notice = s.notice ∧ (s.finish n r).axes = s.axes.set n r.1 := by
  obtain ⟨a, xs⟩ := r
  unfold State.finish
  have : ∀ (t : State), (xs.foldl (fun s x => s.deliver n x) t).pending = t.pending ∧
      (xs.foldl (fun s x => s.deliver n x) t).claim = t.claim ∧
      (xs.foldl (fun s x => s.deliver n x) t).store = t.store ∧
      (xs.foldl (fun s x => s.deliver n x) t).notice = t.notice ∧
      (xs.foldl (fun s x => s.deliver n x) t).axes = t.axes := by
    induction xs with
    | nil => intro t; exact ⟨rfl, rfl, rfl, rfl, rfl⟩
    | cons x xs ih => intro t; simpa using ih (t.deliver n x)
  exact this (s.setAxis n a)

@[simp] theorem State.finish_pending (r : Axis × List Sent) : (s.finish n r).pending = s.pending :=
  (s.finish_frame n r).1

@[simp] theorem State.finish_claim (r : Axis × List Sent) : (s.finish n r).claim = s.claim := (s.finish_frame n r).2.1

@[simp] theorem State.finish_entry (r : Axis × List Sent) : (s.finish n r).entry m = s.entry m := by simp [State.entry]

@[simp] theorem State.finish_store (r : Axis × List Sent) : (s.finish n r).store = s.store := (s.finish_frame n r).2.2.1

@[simp] theorem State.finish_table (r : Axis × List Sent) : (s.finish n r).table = s.table := by simp [State.table]

@[simp] theorem State.finish_notice (r : Axis × List Sent) : (s.finish n r).notice = s.notice :=
  (s.finish_frame n r).2.2.2.1

theorem State.finish_axis (r : Axis × List Sent) : (s.finish n r).axis m = if m = n then r.1 else s.axis m := by
  unfold State.axis
  rw [(s.finish_frame n r).2.2.2.2, Eight.get_set]

/-- The ports after an axis controller's event: each holds what it was sent, in order. -/
theorem State.finish_port (r : Axis × List Sent) :
    (s.finish n r).port q = r.2.foldl (fun u x => u.delivered n q x) (s.port q) := by
  obtain ⟨a, xs⟩ := r
  unfold State.finish
  have : ∀ (t : State), (xs.foldl (fun s x => s.deliver n x) t).port q =
      xs.foldl (fun u x => u.delivered n q x) (t.port q) := by
    induction xs with
    | nil => intro t; rfl
    | cons x xs ih => intro t; simp only [List.foldl_cons]; rw [ih, State.deliver_port]
  exact this (s.setAxis n a)

/-- Start-up control after an axis controller's event: a quiet report is on its way if one was sent. -/
theorem State.finish_start (r : Axis × List Sent) :
    (s.finish n r).start =
      { s.start with
        quietSent := if .quiet ∈ r.2 then s.start.quietSent.set n true else s.start.quietSent } := by
  obtain ⟨a, xs⟩ := r
  unfold State.finish
  have : ∀ (t : State), (xs.foldl (fun s x => s.deliver n x) t).start =
      { t.start with quietSent := if .quiet ∈ xs then t.start.quietSent.set n true else t.start.quietSent } := by
    induction xs with
    | nil => intro t; simp
    | cons x xs ih =>
      intro t
      simp only [List.foldl_cons]
      rw [ih, State.deliver_start]
      by_cases h : x = .quiet
      · subst h; simp
      · have h' : Sent.quiet ≠ x := fun e => h e.symm
        simp [h, h']
  exact this (s.setAxis n a)

/-! ### What a port unit hands on -/

@[simp] theorem State.route_pending (r : Request) : (s.route p r).pending = s.pending := by cases r <;> rfl

@[simp] theorem State.route_ports (r : Request) : (s.route p r).ports = s.ports := by cases r <;> rfl

@[simp] theorem State.route_port (r : Request) : (s.route p r).port q = s.port q := by cases r <;> rfl

/-- A request handed on reaches one inbox: what each block owns besides its inboxes is as it was. -/
theorem State.route_frame (r : Request) :
    (∃ w, (s.route p r).start = { s.start with restartWaiting := w }) ∧
      (∃ b, (s.route p r).claim = { s.claim with inbox := b }) ∧
      (∃ b, (s.route p r).store = { s.store with inbox := b }) ∧
      (∃ b, (s.route p r).notice = { s.notice with inbox := b }) ∧
      ∀ k, ∃ b, (s.route p r).axis k = { s.axis k with reads := b } := by
  cases r
  case readAxis axis =>
    refine ⟨⟨_, rfl⟩, ⟨_, rfl⟩, ⟨_, rfl⟩, ⟨_, rfl⟩, fun k => ?_⟩
    simp only [State.route, State.axis_setAxis]
    split
    · rename_i h; subst h; exact ⟨_, rfl⟩
    · exact ⟨_, rfl⟩
  case readQueue axis =>
    refine ⟨⟨_, rfl⟩, ⟨_, rfl⟩, ⟨_, rfl⟩, ⟨_, rfl⟩, fun k => ?_⟩
    simp only [State.route, State.axis_setAxis]
    split
    · rename_i h; subst h; exact ⟨_, rfl⟩
    · exact ⟨_, rfl⟩
  all_goals exact ⟨⟨_, rfl⟩, ⟨_, rfl⟩, ⟨_, rfl⟩, ⟨_, rfl⟩, fun k => ⟨_, rfl⟩⟩

theorem State.SameButPorts.refl : s.SameButPorts s :=
  ⟨rfl, ⟨_, rfl⟩, ⟨_, rfl⟩, ⟨_, rfl⟩, ⟨_, rfl⟩, fun _ => ⟨_, rfl⟩⟩

variable {s} in
theorem State.SameButPorts.trans {t v : State} (h : s.SameButPorts t) (g : t.SameButPorts v) : s.SameButPorts v := by
  obtain ⟨h0, ⟨w, h1⟩, ⟨b, h2⟩, ⟨c, h3⟩, ⟨d, h4⟩, h5⟩ := h
  obtain ⟨g0, ⟨w', g1⟩, ⟨b', g2⟩, ⟨c', g3⟩, ⟨d', g4⟩, g5⟩ := g
  refine ⟨g0.trans h0, ⟨w', ?_⟩, ⟨b', ?_⟩, ⟨c', ?_⟩, ⟨d', ?_⟩, fun k => ?_⟩
  · rw [g1, h1]
  · rw [g2, h2]
  · rw [g3, h3]
  · rw [g4, h4]
  · obtain ⟨x, hx⟩ := h5 k
    obtain ⟨y, hy⟩ := g5 k
    exact ⟨y, by rw [hy, hx]⟩

theorem State.setPort_same (u : PortUnit) : s.SameButPorts (s.setPort p u) :=
  ⟨rfl, ⟨_, rfl⟩, ⟨_, rfl⟩, ⟨_, rfl⟩, ⟨_, rfl⟩, fun _ => ⟨_, rfl⟩⟩

theorem State.route_same (r : Request) : s.SameButPorts (s.route p r) := by
  obtain ⟨h1, h2, h3, h4, h5⟩ := s.route_frame p r
  exact ⟨s.route_pending p r, h1, h2, h3, h4, h5⟩

theorem State.handOn_same (r : Request) : s.SameButPorts (s.handOn p r) :=
  (s.setPort_same p _).trans (State.route_same _ p r)

theorem State.handHeld_same : s.SameButPorts (s.handHeld p) := by
  unfold State.handHeld
  split
  · split
    · exact s.handOn_same p _
    · exact State.SameButPorts.refl s
  · exact State.SameButPorts.refl s

theorem State.arrive_same (r : Reply) : s.SameButPorts (s.arrive p r) :=
  (s.setPort_same p _).trans (State.handHeld_same _ p)

theorem State.settle_same : s.SameButPorts (s.settle p) := by
  unfold State.settle
  split
  · exact s.arrive_same p _
  · exact (s.setPort_same p _).trans (State.arrive_same _ p _)
  · exact (s.setPort_same p _).trans (State.arrive_same _ p _)
  · exact State.SameButPorts.refl s

theorem State.collected_same : s.SameButPorts (s.collected p) := by
  unfold State.collected
  split
  · exact State.SameButPorts.refl s
  · split
    · exact (s.setPort_same p _).trans (State.arrive_same _ p _)
    · exact State.SameButPorts.refl s
  · split
    · exact (s.setPort_same p _).trans (State.arrive_same _ p _)
    · exact State.SameButPorts.refl s

theorem State.completeByte_same (b : Byte) : s.SameButPorts (s.completeByte p b) := by
  unfold State.completeByte
  dsimp only
  split
  · exact State.SameButPorts.refl s
  · exact s.setPort_same p _
  · split
    · split
      · exact (s.setPort_same p _).trans (State.handHeld_same _ p)
      · exact s.setPort_same p _
    · exact s.setPort_same p _
  · exact State.SameButPorts.refl s
  · exact s.setPort_same p _
  · exact State.SameButPorts.refl s
  · exact State.SameButPorts.refl s

theorem State.sckFalls_same : s.SameButPorts (s.sckFalls p) := by
  unfold State.sckFalls
  dsimp only
  split
  · split
    · exact State.SameButPorts.refl s
    · exact s.setPort_same p _
  · exact s.setPort_same p _

theorem State.sckRises_same (mosi : Bool) : s.SameButPorts (s.sckRises p mosi) := by
  unfold State.sckRises
  dsimp only
  split
  · split
    · exact s.setPort_same p _
    · exact (s.setPort_same p _).trans (State.completeByte_same _ p _)
  · exact State.SameButPorts.refl s

/-- Without an own request in hand, a port unit finds nothing of its own to take. -/
theorem State.settle_idle (h : (s.port p).inHand = none) : s.settle p = s := by
  unfold State.settle
  rw [h]

end Sys2Proof.Machine
end

