-- ==== Sys2Proof/Laws/Events.lean ====
section
/-! SUPPORT. The course of an axis controller's event through its gives: what a run of tasks does up to its next exchange,
and what the whole event has done once the store has taken the gives. -/

namespace Sys2Proof.Machine

variable (s : State) (n : AxisId) (a : Axis) (ts : List Task)

/-! ### Lists of commands -/

@[simp] theorem execAll_nil : execAll [] s = .next s := rfl

theorem execAll_cons {c : Instr} {cs : List Instr} {s t : State} (h : exec c s = .next t) :
    execAll (c :: cs) s = execAll cs t := by
  simp only [execAll, h]

theorem execAll_append {cs ds : List Instr} {s t : State} (h : execAll cs s = .next t) :
    execAll (cs ++ ds) s = execAll ds t := by
  induction cs generalizing s with
  | nil => cases h; rfl
  | cons c cs ih =>
    simp only [execAll, List.cons_append] at h ⊢
    split at h
    · exact ih h
    · cases h
    · cases h

@[simp] theorem gives_nil : gives n [] = [] := rfl

theorem gives_append (q r : List Segment) : gives n (q ++ r) = gives n q ++ gives n r := by
  simp [gives]

theorem gives_cons_none {g : Segment} (q : List Segment) (h : g.profile = none) : gives n (g :: q) = gives n q := by
  simp [gives, h]

theorem gives_cons_some {g : Segment} {k : ProfileId} (q : List Segment) (h : g.profile = some k) :
    gives n (g :: q) = .give n :: gives n q := by
  simp [gives, h]

/-! ### Putting back an axis -/

@[simp] theorem State.setAxis_setAxis (b : Axis) : (s.setAxis n a).setAxis n b = s.setAxis n b := by
  simp [State.setAxis]

@[simp] theorem State.finish_setAxis (r : Axis × List Sent) : (s.setAxis n a).finish n r = s.finish n r := by
  simp [State.finish]

@[simp] theorem State.runAxis_setAxis (b : Axis) : (s.setAxis n b).runAxis n a ts = s.runAxis n a ts := by
  simp [State.runAxis]

@[simp] theorem State.runAxis_nil : s.runAxis n a [] = s.setAxis n a := rfl

theorem State.runAxis_made {t : Task} {b : Axis} (h : Axis.doTask s.table a t = .made b []) :
    s.runAxis n a (t :: ts) = s.runAxis n b ts := by
  simp only [State.runAxis, Axis.run, h, List.nil_append]

theorem State.runAxis_gives {t : Task} {b : Axis} {what : Leaving} {after : List Task}
    (h : Axis.doTask s.table a t = .gives b what after) :
    s.runAxis n a (t :: ts) = s.setAxis n { b with busy := .give what (after ++ ts) } := by
  simp only [State.runAxis, Axis.run, h]
  rfl

theorem State.runAxis_takes {t : Task} {b : Axis} (h : Axis.doTask s.table a t = .takes b) :
    s.runAxis n a (t :: ts) = s.setAxis n { b with busy := .parkTake ts } := by
  simp only [State.runAxis, Axis.run, h]
  rfl

@[simp] theorem State.runAxis_send (x : Sent) : s.runAxis n a [.send x] = (s.setAxis n a).deliver n x := rfl

/-! ### Gives -/

theorem State.withGivenBack_nil : s.withGivenBack [] = s := by
  have : givenBack s.table (fun k => queueRefs k []) = s.store.entries := by
    apply Eight.ext_get; intro k
    simp [givenBack, queueRefs, State.table]
  simp only [State.withGivenBack, this]

theorem queueRefs_cons (k : ProfileId) (g : Segment) (q : List Segment) :
    queueRefs k (g :: q) = g.refs k + queueRefs k q := by
  simp [queueRefs]

theorem State.withGivenBack_cons_none {g : Segment} (q : List Segment) (h : g.profile = none) :
    s.withGivenBack (g :: q) = s.withGivenBack q := by
  have : (fun k => queueRefs k (g :: q)) = fun k => queueRefs k q := by
    funext k; simp [queueRefs_cons, Segment.refs, h]
  simp only [State.withGivenBack, this]

theorem State.withGivenBack_cons_some {g : Segment} {k : ProfileId} (q : List Segment) (h : g.profile = some k) :
    s.withGivenBack (g :: q) = (s.giveRef k).withGivenBack q := by
  have : givenBack s.table (fun k => queueRefs k (g :: q)) =
      givenBack (s.giveRef k).table (fun k => queueRefs k q) := by
    apply Eight.ext_get; intro j
    simp only [givenBack, Eight.get_map, queueRefs_cons, Segment.refs, h, State.giveRef, State.table_setTable]
    by_cases hj : j = k
    · subst hj; simp [Entry.lower, Nat.sub_sub]
    · simp [hj, Ne.symm hj]
  simp only [State.withGivenBack, this]
  rfl

theorem State.withGivenBack_append (q r : List Segment) :
    s.withGivenBack (q ++ r) = (s.withGivenBack q).withGivenBack r := by
  induction q generalizing s with
  | nil => rw [State.withGivenBack_nil]; rfl
  | cons g q ih =>
    cases h : g.profile with
    | none => rw [List.cons_append, State.withGivenBack_cons_none _ _ h, State.withGivenBack_cons_none _ _ h, ih]
    | some k => rw [List.cons_append, State.withGivenBack_cons_some _ _ h, State.withGivenBack_cons_some _ _ h, ih]

/-- A give taken by the store: the count falls, the segment has left the axis, and the event goes on. -/
theorem exec_give {what : Leaving} {rest : List Task} {g : Segment} {k : ProfileId}
    (hb : (s.axis n).busy = .give what rest) (hl : (s.axis n).leaver what = some g) (hk : g.profile = some k) :
    exec (.give n) s = .next ((s.giveRef k).runAxis n (({ s.axis n with busy := .none } : Axis).left what) rest) := by
  simp only [exec, execGive, hb, hl, hk]

theorem exec_give_setAxis {what : Leaving} {rest : List Task} {g : Segment} {k : ProfileId}
    (hl : a.leaver what = some g) (hk : g.profile = some k) :
    exec (.give n) (s.setAxis n { a with busy := .give what rest }) =
      .next ((s.giveRef k).runAxis n (({ a with busy := .none } : Axis).left what) rest) := by
  have hl' : ({ a with busy := .give what rest } : Axis).leaver what = some g := by rw [← hl]; cases what <;> rfl
  rw [exec_give (hb := by rw [State.axis_setAxis_same]) (hl := by rw [State.axis_setAxis_same]; exact hl') (hk := hk),
    State.axis_setAxis_same, ← State.runAxis_setAxis (s.giveRef k) n _ rest { a with busy := .give what rest }]
  rfl

theorem Segment.isDwell_iff (g : Segment) : g.isDwell = true ↔ g.profile = none := by
  cases h : g.job <;> simp [Segment.isDwell, Segment.profile, h]

/-- The discard of a waiting queue, once the store has taken its gives. -/
theorem execAll_dropWaiting (q : List Segment) (hq : a.waiting = q) (hb : a.busy = .none) :
    execAll (gives n q) (s.runAxis n a (.dropWaiting :: ts)) =
      .next ((s.withGivenBack q).runAxis n { a with waiting := [] } ts) := by
  induction q generalizing s a with
  | nil =>
    rw [State.withGivenBack_nil, State.runAxis_made s n a ts (b := { a with waiting := [] })]
    · rfl
    · simp [Axis.doTask, hq]
  | cons g q ih =>
    cases h : g.profile with
    | none =>
      rw [gives_cons_none _ _ h, State.withGivenBack_cons_none _ _ h]
      have hd : g.isDwell = true := (g.isDwell_iff).2 h
      have : s.runAxis n a (.dropWaiting :: ts) = s.runAxis n { a with waiting := q } (.dropWaiting :: ts) := by
        have : Axis.doTask s.table a .dropWaiting = Axis.doTask s.table { a with waiting := q } .dropWaiting := by
          simp [Axis.doTask, hq, hd]
        simp only [State.runAxis, Axis.run, this]
      rw [this]
      exact ih s { a with waiting := q } rfl hb
    | some k =>
      have hd : g.isDwell = false := by
        cases hd : g.isDwell with
        | false => rfl
        | true => rw [(g.isDwell_iff).1 hd] at h; cases h
      rw [gives_cons_some _ _ h, State.withGivenBack_cons_some _ _ h,
        State.runAxis_gives s n a ts (b := { a with waiting := g :: q }) (what := .oldest) (after := [.dropWaiting])]
      · rw [execAll_cons (exec_give_setAxis s n { a with waiting := g :: q } rfl h)]
        have e : (({ a with waiting := g :: q, busy := .none } : Axis).left .oldest) = { a with waiting := q } := by
          rw [← hb]; rfl
        rw [e]
        exact ih (s.giveRef k) { a with waiting := q } rfl hb
      · simp [Axis.doTask, hq, hd]

/-- The discard of the active segment with no pulse in progress, once the store has taken its give. -/
theorem execAll_dropActive {act : Active} (hs : a.slot = some act) (hp : a.pulse = none) (hb : a.busy = .none) :
    execAll (gives n [act.seg]) (s.runAxis n a (.dropActive :: ts)) =
      .next ((s.withGivenBack [act.seg]).runAxis n a.clearSlot ts) := by
  cases h : act.seg.profile with
  | none =>
    rw [gives_cons_none _ _ h, State.withGivenBack_cons_none _ _ h, State.withGivenBack_nil,
      State.runAxis_made s n a ts (b := a.clearSlot)]
    · rfl
    · simp [Axis.doTask, hs, hp, h]
  | some k =>
    rw [gives_cons_some _ _ h, State.withGivenBack_cons_some _ _ h, State.withGivenBack_nil,
      State.runAxis_gives s n a ts (b := a) (what := .active false) (after := [])]
    · rw [execAll_cons (exec_give_setAxis s n a (g := act.seg) (by simp [Axis.leaver, hs]) h)]
      have e : (({ a with busy := .none } : Axis).left (.active false)) = a.clearSlot := by rw [← hb]; rfl
      rw [e]
      rfl
    · simp [Axis.doTask, hs, hp, h]

/-- The axis once its active segment has completed, up to the step that gives it its next state (R50). -/
def Axis.completed (a : Axis) : Axis := a.homeReached.doneAndClear

/-- The completion of an active segment that names a profile, once the store has taken its give. -/
theorem execAll_complete {act : Active} {k : ProfileId} (hs : a.slot = some act) (hp : a.pulse = none)
    (hk : act.seg.profile = some k) (hb : a.busy = .none) :
    execAll [.give n] (s.runAxis n a (.complete :: ts)) =
      .next ((s.withGivenBack [act.seg]).runAxis n a.completed ts) := by
  have hh : a.homeReached.slot = some act := by
    simp only [Axis.homeReached, hs]; split <;> simp [hs]
  have hhb : a.homeReached.busy = .none := by
    simp only [Axis.homeReached, hs]; split <;> simp [hb]
  rw [State.withGivenBack_cons_some _ _ hk, State.withGivenBack_nil,
    State.runAxis_gives s n a ts (b := a.homeReached) (what := .active true) (after := [])]
  · rw [execAll_cons (exec_give_setAxis s n a.homeReached (g := act.seg) (by simp [Axis.leaver, hh]) hk)]
    have e : (({ a.homeReached with busy := .none } : Axis).left (.active true)) = a.completed := by rw [← hhb]; rfl
    rw [e]
    rfl
  · simp [Axis.doTask, Axis.completeActive, hs, hp, hk]

end Sys2Proof.Machine
end

