-- ==== Sys2Proof/Laws/Activation.lean ====
section
/-! SUPPORT. What the activation of a queue's head and a counted step give, each said once over a whole event (2 R42 to R50,
3 R63). -/

namespace Sys2Proof.Machine

/-! ## The head of the queue -/

section

variable (table : Eight Entry) (a : Axis) (g : Segment) (rest : List Segment)

/-- A segment placed in the slot with its LOW check made, in the state it enters, is the axis `activated` speaks of. -/
theorem Axis.beginStep_placed (r : Resolved) (b : Axis)
    (hb : b = if rest.length = a.config.lowThreshold.val then ({ a with waiting := rest } : Axis).post .low 0
      else { a with waiting := rest }) :
    Axis.beginStep table { b.placed g r with state := (b.placed g r).enteredState g.gated } =
      a.activated table g rest r := by
  subst hb
  unfold Axis.activated
  congr 1
  by_cases h1 : rest.length = a.config.lowThreshold.val <;> cases h2 : r.clipped <;>
    simp [h1, h2, Axis.placed, Axis.post, Axis.enteredState, Axis.holdCause]

/-- A head with a count above 0, or a DWELL, activates into the state of R47. -/
theorem Axis.activateHead_step (r : Resolved) (hw : a.waiting = g :: rest) (hs : a.slot = none) (h1 : a.state ≠ .off)
    (h2 : a.state ≠ .faulted) (hr : a.resolve g.job = some r) (hc : r.count ≠ 0 ∨ g.isDwell = true) :
    a.activateHead table = .made (a.activated table g rest r) [] := by
  have hm : a.mayActivate = true := by simp [Axis.mayActivate, hs, h1, h2]
  obtain ⟨b, hb⟩ : ∃ b, b = if rest.length = a.config.lowThreshold.val
      then ({ a with waiting := rest } : Axis).post .low 0 else { a with waiting := rest } := ⟨_, rfl⟩
  have hr' : b.resolve g.job = some r := by rw [← hr, hb]; split <;> rfl
  have hc' : ¬ (r.count = 0 ∧ g.isDwell = false) := by rintro ⟨h, h'⟩; rcases hc with h3 | h3 <;> simp_all
  rw [← Axis.beginStep_placed table a g rest r b hb]
  simp only [Axis.activateHead, hw, hm, Axis.activate]
  rw [← hb]
  simp only [hr', if_neg hc']

/-- A GOTO without a known position takes the slot and is given back, and the axis is FAULTED after it (R44). -/
theorem Axis.activateHead_none (hw : a.waiting = g :: rest) (hs : a.slot = none) (h1 : a.state ≠ .off)
    (h2 : a.state ≠ .faulted) (hr : a.resolve g.job = none) :
    a.activateHead table = .gives
      { a with
        waiting := rest, slot := some ⟨g, none, 0, 0, false⟩, truncReported := false
        posts := a.posts ++ if rest.length = a.config.lowThreshold.val then [⟨.low, 0⟩] else [] }
      (.active false) [.enterFaulted .noReference] := by
  have hm : a.mayActivate = true := by simp [Axis.mayActivate, hs, h1, h2]
  have hr' : (if rest.length = a.config.lowThreshold.val then ({ a with waiting := rest } : Axis).post .low 0
      else { a with waiting := rest }).resolve g.job = none := by
    rw [← hr]; split <;> rfl
  simp only [Axis.activateHead, hw, hm, Axis.activate, hr', Axis.unplaced]
  split <;> simp [Axis.post]

/-- A head with a count of 0 that names a profile takes the slot and completes at once (R48). -/
theorem Axis.activateHead_zero (r : Resolved) (k : ProfileId) (hw : a.waiting = g :: rest) (hs : a.slot = none)
    (h1 : a.state ≠ .off) (h2 : a.state ≠ .faulted) (hr : a.resolve g.job = some r) (hc : r.count = 0)
    (hk : g.profile = some k) :
    a.activateHead table = .gives
      { a with
        waiting := rest, slot := some ⟨g, r.direction, 0, 0, r.clipped⟩, truncReported := false
        position := if g.isHome then a.config.homePosition else a.position
        positionValid := a.positionValid || g.isHome
        posts :=
          a.posts ++ (if rest.length = a.config.lowThreshold.val then [⟨.low, 0⟩] else []) ++
            if r.clipped then [⟨.limit, 0⟩] else [] }
      (.active true) [.next] := by
  have hm : a.mayActivate = true := by simp [Axis.mayActivate, hs, h1, h2]
  have hr' : (if rest.length = a.config.lowThreshold.val then ({ a with waiting := rest } : Axis).post .low 0
      else { a with waiting := rest }).resolve g.job = some r := by
    rw [← hr]; split <;> rfl
  have hd : g.isDwell = false := by
    cases hd : g.isDwell with
    | false => rfl
    | true => rw [(g.isDwell_iff).1 hd] at hk; cases hk
  simp only [Axis.activateHead, hw, hm, Axis.activate, hr', hc, hd, and_self, if_true, Axis.completeActive]
  by_cases h3 : rest.length = a.config.lowThreshold.val <;> cases h4 : r.clipped <;> cases h5 : g.isHome <;>
    simp [h3, h4, h5, Axis.placed, Axis.post, hk, Axis.homeReached, hc]

end

/-- A segment that cannot be resolved names a profile: it is a GOTO or a PARK. -/
theorem Axis.profile_of_resolve_none {a : Axis} {g : Segment} (h : a.resolve g.job = none) :
    ∃ k, g.profile = some k := by
  unfold Axis.resolve at h
  unfold Segment.profile
  split at h <;> simp_all

/-! ## The wake of an IDLE axis, over a whole event -/

section

variable (s : State) (n : AxisId) (a : Axis) (g : Segment) (ts : List Task)

theorem Axis.doTask_wake (table : Eight Entry) (h : a.state = .idle) :
    Axis.doTask table a .wake = a.activateHead table := by
  simp [Axis.doTask, h]

/-- A task that gives back a reference, with the give taken. -/
theorem execAll_gives (b : Axis) (t : Task) (what : Leaving) (after : List Task) (k : ProfileId)
    (h : Axis.doTask s.table a t = .gives b what after) (hl : b.leaver what = some g) (hk : g.profile = some k) :
    execAll [.give n] (s.runAxis n a (t :: ts)) =
      .next ((s.withGivenBack [g]).runAxis n (({ b with busy := .none } : Axis).left what) (after ++ ts)) := by
  rw [State.runAxis_gives _ _ _ _ h, execAll_cons (exec_give_setAxis s n b hl hk),
    State.withGivenBack_cons_some _ _ hk, State.withGivenBack_nil]
  rfl

/-- The wake of an IDLE axis whose head has a count above 0, or is a DWELL. -/
theorem State.runAxis_wake_step (rest : List Segment) (r : Resolved) (hw : a.waiting = g :: rest) (hs : a.slot = none)
    (h1 : a.state = .idle) (hr : a.resolve g.job = some r) (hc : r.count ≠ 0 ∨ g.isDwell = true) :
    s.runAxis n a (.wake :: ts) = s.runAxis n (a.activated s.table g rest r) ts :=
  State.runAxis_made _ _ _ _ ((Axis.doTask_wake a _ h1).trans
    (Axis.activateHead_step _ _ _ _ _ hw hs (by simp [h1]) (by simp [h1]) hr hc))

end

/-! ## A step that counts, and the end of a pulse -/

/-- Steps 1 to 3 of a pulse end, as one record (R63). -/
theorem Axis.stepCounts_eq {a : Axis} {act : Active} (pl : Pulse) (hs : a.slot = some act) :
    a.stepCounts pl = { a with
      pulse := none
      slot := some { act with remaining := act.remaining - 1 }
      position := a.stepped pl.direction act.seg
      posts := a.posts ++ if pl.truncated = true ∧ a.truncReported = false then [⟨.trunc, 0⟩] else []
      truncReported := a.truncReported || pl.truncated } := by
  simp only [Axis.stepCounts, hs]
  cases h8 : pl.truncated <;> cases h9 : a.truncReported <;> simp [Axis.post]

/-- Time at an axis whose driver has not cut its pulse. -/
theorem Axis.advance_of_not_tripped {a : Axis} {d : Nat} (h : a.tripped = false) :
    a.advance d = { a with periodLeft := a.periodLeft - d, pulse := a.pulse.map (Pulse.advance d) } := by
  unfold Axis.advance; simp [h]

/-- PULSE_END of a free axis whose pulse runs and whose period is not taken yet. -/
theorem exec_pulseEnd {s : State} {n : AxisId} {a : Axis} {pl : Pulse} {act : Active} (ha : s.axis n = a)
    (hf : a.free = true) (htr : a.tripped = false) (hp : a.pulse = some pl) (hs : a.slot = some act)
    (hpe : a.periodExpired = false) :
    exec (.pulseEnd n) s = .next ((s.advance (pl.cutAt - pl.elapsed)).finish n
      (Axis.pulseEnd s.table ((s.advance (pl.cutAt - pl.elapsed)).axis n) pl
        (decide (pl.cutAt = period act.seg.rate ∧ a.periodLeft ≤ pl.cutAt - pl.elapsed)))) := by
  simp [exec, execPulseEnd, ha, hp, Axis.pulseRuns, hf, htr, State.endPulse, Axis.endsWithPeriod, hs, hpe,
    Pulse.timeLeft]

end Sys2Proof.Machine
end

