-- ==== Sys2Proof/Laws/Resolution.lean ====
section
/-! SUPPORT. What resolution promises: counts and directions that keep an axis within its limits (2 R43 to R46). -/

namespace Sys2Proof.Machine

/-- The distance is the difference the right way round. -/
theorem distance_eq (x y : Word16) : distance x y = (x.toNat - y.toNat) + (y.toNat - x.toNat) := by
  unfold distance
  omega

/-- A distance is at most 65535 steps. -/
theorem distance_le (x y : Word16) : distance x y ≤ 65535 := by
  have := x.isLt; have := y.isLt
  unfold distance; omega

/-- A clipped target lies within the limits (R43, R44). -/
theorem clipTarget_within {c : AxisConfig} (hc : c.loLimit.toNat ≤ c.hiLimit.toNat) (t : Int) :
    c.loLimit.toNat ≤ (clipTarget c t).toNat ∧ (clipTarget c t).toNat ≤ c.hiLimit.toNat := by
  unfold clipTarget
  have := c.hiLimit.isLt
  split
  · omega
  · split
    · omega
    · have : (BitVec.ofInt 16 t).toNat = t.toNat := by
        rw [BitVec.toNat_ofInt]; congr 1; rw [Int.emod_eq_of_lt] <;> omega
      omega

/-- A target within the limits is not moved (R43, R44). -/
theorem clipTarget_toNat {c : AxisConfig} {t : Int} (h1 : (c.loLimit.toNat : Int) ≤ t) (h2 : t ≤ c.hiLimit.toNat) :
    ((clipTarget c t).toNat : Int) = t := by
  unfold clipTarget
  have := c.hiLimit.isLt
  rw [if_neg (by omega), if_neg (by omega)]
  rw [BitVec.toNat_ofInt, Int.emod_eq_of_lt] <;> omega

/-- What a resolution promises. -/
structure Resolved.Ok (a : Axis) (g : Segment) (r : Resolved) : Prop where
  count : r.count ≤ 65535
  dwell : g.isDwell = true → r.direction = none
  path : a.positionValid = true → g.isHome = false →
    (r.direction = some .forward → a.position.toNat + r.count ≤ a.config.hiLimit.toNat) ∧
    (r.direction = some .reverse → a.config.loLimit.toNat + r.count ≤ a.position.toNat)

/-- The way toward a goal within the limits does not leave them. -/
theorem toward_path {c : AxisConfig} {pos goal : Word16}
    (hg : c.loLimit.toNat ≤ goal.toNat ∧ goal.toNat ≤ c.hiLimit.toNat) :
    (toward pos goal = some .forward → pos.toNat + distance goal pos ≤ c.hiLimit.toNat) ∧
    (toward pos goal = some .reverse → c.loLimit.toNat + distance goal pos ≤ pos.toNat) := by
  unfold toward distance
  split
  · simp; omega
  · split
    · simp; omega
    · simp

/-- Resolution promises a count that keeps the axis within its limits (R43 to R46). -/
theorem resolve_ok {a : Axis} {g : Segment} {r : Resolved} (hc : a.config.Valid)
    (hk : a.positionValid = true → within a.config a.position = true)
    (hp : ∀ t p, g.job = .park t p → within a.config t = true) (h : a.resolve g.job = some r) : r.Ok a g := by
  unfold Axis.resolve at h
  split at h
  · rename_i value p hj
    have hm : value.msb = true ↔ value.toInt < 0 := by rw [BitVec.msb_eq_toInt]; simp
    have h1 := value.isLt
    have h2 : value.toInt = if 2 * value.toNat < 65536 then (value.toNat : Int) else value.toNat - 65536 := by
      rw [BitVec.toInt_eq_toNat_cond]; simp
    split at h
    · rename_i hv
      have hw := hk hv
      simp [within] at hw
      simp at h; subst h
      refine ⟨distance_le _ _, by simp [Segment.isDwell, hj], fun _ _ => ?_⟩
      have hg := clipTarget_within hc.ordered (a.position.toNat + value.toInt)
      have hlo : (a.position.toNat : Int) + value.toInt ≤ a.config.hiLimit.toNat →
         (a.config.loLimit.toNat : Int) ≤ a.position.toNat + value.toInt →
        ((clipTarget a.config (a.position.toNat + value.toInt)).toNat : Int) = a.position.toNat + value.toInt :=
        fun x y => clipTarget_toNat y x
      have hcases :
          (a.config.hiLimit.toNat : Int) < (a.position.toNat : Int) + value.toInt ∨
            (a.position.toNat : Int) + value.toInt < a.config.loLimit.toNat ∨
            ((clipTarget a.config (a.position.toNat + value.toInt)).toNat : Int) = a.position.toNat + value.toInt := by
        by_cases x : (a.position.toNat : Int) + value.toInt ≤ a.config.hiLimit.toNat
        · by_cases y : (a.config.loLimit.toNat : Int) ≤ a.position.toNat + value.toInt
          · exact .inr (.inr (hlo x y))
          · omega
        · omega
      have hclo : (a.position.toNat : Int) + value.toInt < a.config.loLimit.toNat →
          clipTarget a.config (a.position.toNat + value.toInt) = a.config.loLimit := by
        intro x; simp [clipTarget, x]
      have hchi : (a.config.hiLimit.toNat : Int) < (a.position.toNat : Int) + value.toInt →
          clipTarget a.config (a.position.toNat + value.toInt) = a.config.hiLimit := by
        intro x; rw [clipTarget, if_neg (by have := hc.ordered; omega), if_pos x]
      simp only [moveDirection, distance_eq]
      have := hc.ordered
      generalize hq : clipTarget a.config (a.position.toNat + value.toInt) = q at *
      by_cases hs : value.msb = true
      · have hv0 := hm.mp hs
        rw [if_pos hs]
        rcases hcases with x | x | x
        · have hq' := hchi x; subst hq'; simp; omega
        · have hq' := hclo x; subst hq'; simp; omega
        · simp; omega
      · have hv0 : 0 ≤ value.toInt := by
          by_contra q; exact hs (hm.mpr (by omega))
        rw [if_neg hs]
        rcases hcases with x | x | x
        · have hq' := hchi x; subst hq'; simp; omega
        · have hq' := hclo x; subst hq'; simp; omega
        · simp; omega
    · rename_i hv
      simp at h; subst h
      refine ⟨by simp; omega, by simp [Segment.isDwell, hj], fun x => absurd x hv⟩
  · rename_i target p hj
    split at h
    · simp at h; subst h
      exact ⟨distance_le _ _, by simp [Segment.isDwell, hj], fun _ _ => toward_path (clipTarget_within hc.ordered _)⟩
    · simp at h
  · rename_i p hj
    simp at h; subst h
    exact ⟨by have := a.config.homeOverdrive.isLt; simp; omega, by simp [Segment.isDwell, hj],
        by simp [Segment.isHome, hj]⟩
  · rename_i p hj
    simp at h; subst h
    exact ⟨by have := p.isLt; simp; omega, by simp, by simp⟩
  · rename_i target p hj
    have hw := hp _ _ hj
    split at h
    · simp at h; subst h
      refine ⟨distance_le _ _, by simp [Segment.isDwell, hj], fun _ _ => toward_path ?_⟩
      simpa [within] using hw
    · simp at h

end Sys2Proof.Machine
end

