-- ==== Sys2Proof/Laws/AxisShape.lean ====
section
/-! SUPPORT. What the tasks of an axis controller's event keep, part by part: an axis that is ready for its tasks
stays ready, or holds an exchange, and is sound once they are made (1 R13, 2 R32 to R50). -/

namespace Sys2Proof.Machine

/-- The axis inside an event, with tasks `ts` to come. -/
structure Axis.Core (a : Axis) (ts : List Task) : Prop where
  busy : a.busy = .none
  empty : a.state.active = false → a.slot = none
  full : a.state.active = true → a.slot ≠ none ∨ ts.any Task.settles = true
  pulse : ∀ pl, a.pulse = some pl → a.state = pl.endAction.runsIn ∧
    ∃ act, a.slot = some act ∧ act.direction = some pl.direction ∧ 0 < act.remaining
  stopping : a.state = .stopping → a.pulse ≠ none ∨ (ts.any Task.settles = true ∧
      (a.slot = none ∨ ts.any Task.ends = true))
  fault : a.faultKind = none ↔ a.state ≠ .faulted
  off : a.state = .off → a.waiting = [] ∧ a.pauseFlag = false
  queue : a.waiting.length ≤ Config.queueDepth
  noPark : ∀ g, g ∈ a.waiting → g.isPark = false
  dwellMark : a.dwellMark = true → ∃ act, a.slot = some act ∧ act.seg.isDwell = true
  dwell : ∀ act, a.slot = some act → act.seg.isDwell = true → act.direction = none
  config : a.config.Valid
  known : a.positionValid = true → within a.config a.position = true
  path : ∀ act, a.slot = some act → a.positionValid = true → act.seg.isHome = false → a.pathWithin act
  count : ∀ act, a.slot = some act → act.remaining ≤ act.resolvedCount ∧ act.resolvedCount ≤ 65535

/-- An axis whose event has no task left is sound. -/
theorem Axis.Core.shaped {a : Axis} (h : a.Core []) : a.Shaped ∧ a.Placed := by
  refine ⟨⟨?_, ?_, ?_, ?_, ?_, ?_, h.fault, h.off, h.queue, h.noPark, ?_, h.dwellMark, h.dwell⟩, ⟨h.config, h.known,
      h.path, h.count, ?_⟩⟩
  all_goals simp [h.busy, Busy.givesActive]
  · exact h.empty
  · intro hs; left; simpa using h.full hs
  · intro pl hp; exact h.pulse pl hp
  · intro hs; left; simpa using h.stopping hs

/-- Beginning a step or a dwell period keeps an axis ready for its tasks (R58, R60, R66). -/
theorem beginStep_core (table : Eight Entry) {a : Axis} {ts} (h : a.Core ts) : (Axis.beginStep table a).Core ts := by
  unfold Axis.beginStep
  split
  · rename_i act hslot
    split
    · rename_i hc
      obtain ⟨hst, -, hp, hr⟩ := hc
      split
      · rename_i dir hd hdir
        refine ⟨h.busy, ?_, ?_, ?_, ?_, h.fault, h.off, h.queue, h.noPark, h.dwellMark, h.dwell, h.config, h.known,
            h.path, h.count⟩
        · exact h.empty
        · exact h.full
        · intro pl hpl
          simp at hpl
          subst hpl
          refine ⟨?_, act, hslot, ?_, hr⟩
          · cases dir <;> simpa [Axis.startTimer, Pulse.first, EndAction.runsIn] using hst
          · cases dir <;> simpa [Pulse.first] using hdir
        · simp [Axis.startTimer]
      · rename_i hd
        refine ⟨h.busy, h.empty, h.full, h.pulse, h.stopping, h.fault, h.off, h.queue, h.noPark, ?_, h.dwell,
            h.config, h.known, h.path, h.count⟩
        intro _; exact ⟨act, hslot, hd⟩
      · exact h
    · exact h
  · exact h

/-- Readiness reads no mailbox or bookkeeping field. -/
theorem Axis.Core.congr {a b : Axis} {ts} (h : a.Core ts)
    (h1 : b.config = a.config) (h2 : b.state = a.state) (h3 : b.position = a.position)
    (h4 : b.positionValid = a.positionValid) (h5 : b.faultKind = a.faultKind) (h6 : b.dwellMark = a.dwellMark)
    (h7 : b.waiting = a.waiting) (h8 : b.slot = a.slot) (h9 : b.pulse = a.pulse) (h10 : b.busy = a.busy)
    (h11 : b.pauseFlag = a.pauseFlag) : b.Core ts := by
  obtain ⟨c1,c2,c3,c4,c5,c6,c7,c8,c9,c10,c11,c12,c13,c14,c15⟩ := h
  constructor <;> simp only [h1,h2,h3,h4,h5,h6,h7,h8,h9,h10,h11, Axis.pathWithin] <;> assumption

/-- Posting a notice keeps an axis ready for its tasks. -/
theorem Axis.Core.post {a : Axis} {ts} (h : a.Core ts) (k t) : (a.post k t).Core ts :=
  h.congr rfl rfl rfl rfl rfl rfl rfl rfl rfl rfl rfl

/-- An axis is sound: its shape and its place. -/
def Axis.Ok (a : Axis) : Prop := a.Shaped ∧ a.Placed

/-- What a task's result promises, with tasks `ts` to follow. -/
def TaskResult.Ok (r : TaskResult) (ts : List Task) : Prop :=
  match r with
  | .made a _ => a.Core ts
  | .gives a what after => ({ a with busy := .give what (after ++ ts) } : Axis).Ok
  | .takes a => ({ a with busy := .parkTake ts } : Axis).Ok

/-- Two lists of tasks that give the axis a state end in one that does. -/
theorem tasksEnd_append {xs ys : List Task} (hx : tasksEnd xs = true) (hy : tasksEnd ys = true) :
    tasksEnd (xs ++ ys) = true := by
  induction xs with
  | nil => simpa
  | cons t ts ih =>
    simp [tasksEnd] at hx ⊢
    refine ⟨?_, ih hx.2⟩
    rcases hx.1 with h | h
    · exact .inl h
    · right; left; exact h

/-- An axis that holds an exchange to give back its active segment's reference. -/
theorem Axis.Core.giving {a : Axis} {ts rest : List Task} (h : a.Core ts) (c : Bool) (hp : a.pulse = none)
    (hend : tasksEnd rest = true) (hs : rest.any Task.settles = true) :
    ({ a with busy := .give (.active c) rest } : Axis).Ok := by
  refine ⟨⟨?_, ?_, ?_, ?_, ?_, ?_, h.fault, h.off, h.queue, h.noPark, ?_, h.dwellMark, h.dwell⟩,
    ⟨h.config, h.known, h.path, h.count, ?_⟩⟩ <;> simp [Busy.givesActive, Busy.settling, Busy.endsActive, hs, hend,
        hp]

/-- An axis that holds an exchange for a waiting segment. -/
theorem Axis.Core.givingWaiting {a : Axis} {ts rest : List Task} {what : Leaving} (h : a.Core ts)
    (hw : ∀ c, what ≠ .active c) (hend : tasksEnd rest = true)
    (hs : ts.any Task.settles = true → rest.any Task.settles = true)
    (he : ts.any Task.ends = true → rest.any Task.ends = true) :
    ({ a with busy := .give what rest } : Axis).Ok := by
  have hg : (Busy.give what rest).givesActive = false := by cases what <;> simp_all [Busy.givesActive]
  have hga : rest.any Task.ends = true → (Busy.give what rest).endsActive = true := by
      cases what <;> simp_all [Busy.endsActive]
  refine ⟨⟨?_, ?_, ?_, ?_, ?_, ?_, h.fault, h.off, h.queue, h.noPark, ?_, h.dwellMark, h.dwell⟩,
    ⟨h.config, h.known, h.path, h.count, ?_⟩⟩
  · intro w t e; simp at e; rw [← e.2]; exact hend
  · simp
  · intro x; left; exact h.empty x
  · intro x
    rcases h.full x with y | y
    · exact .inl ⟨y, hg⟩
    · exact .inr (hs y)
  · intro pl x; obtain ⟨y, z⟩ := h.pulse pl x; exact ⟨y, hg, z⟩
  · intro x
    rcases h.stopping x with y | ⟨y, z | z⟩
    · exact .inl y
    · exact .inr ⟨hs y, .inl z⟩
    · exact .inr ⟨hs y, .inr (hga (he z))⟩
  · simp
  · simp

/-- Emptying the slot with no pulse in progress. -/
theorem Axis.Core.clearSlot {a : Axis} {ts ts' : List Task} (h : a.Core ts) (hp : a.pulse = none)
    (hs : ts'.any Task.settles = true) : a.clearSlot.Core ts' := by
  constructor <;> simp [Axis.clearSlot, h.busy, h.fault, hp, hs]
  · simpa using h.off
  · exact h.queue
  · exact h.noPark
  · exact h.config
  · exact h.known

/-- Readiness asks of the tasks to come only whether they settle the state and end the segment. -/
theorem Axis.Core.weaken {a : Axis} {ts ts' : List Task} (h : a.Core ts)
    (hs : ts.any Task.settles = true → ts'.any Task.settles = true)
    (he : ts.any Task.ends = true → ts'.any Task.ends = true) : a.Core ts' := by
  refine ⟨h.busy, h.empty, ?_, h.pulse, ?_, h.fault, h.off, h.queue, h.noPark, h.dwellMark, h.dwell, h.config,
      h.known, h.path, h.count⟩
  · intro x; rcases h.full x with y | y
    · exact .inl y
    · exact .inr (hs y)
  · intro x; rcases h.stopping x with y | ⟨y, z | z⟩
    · exact .inl y
    · exact .inr ⟨hs y, .inl z⟩
    · exact .inr ⟨hs y, .inr (he z)⟩

/-- The first step of a completion leaves the slot. -/
theorem homeReached_slot (a : Axis) : a.homeReached.slot = a.slot := by
  unfold Axis.homeReached; split
  · split <;> rfl
  · rfl

/-- The first step of a completion keeps an axis ready (R50, R105). -/
theorem homeReached_core {a : Axis} {ts : List Task} (h : a.Core ts) (hp : a.pulse = none) :
    a.homeReached.Core ts ∧ a.homeReached.pulse = none := by
  unfold Axis.homeReached
  split
  · rename_i act hslot
    split
    · rename_i hh
      refine ⟨⟨h.busy, h.empty, h.full, h.pulse, h.stopping, h.fault, h.off, h.queue, h.noPark, h.dwellMark, h.dwell,
          h.config, ?_, ?_, h.count⟩, hp⟩
      · intro _; exact h.config.home
      · intro act' ha _ hnh
        simp only at ha
        rw [hslot] at ha; cases ha; simp [hh] at hnh
    · exact ⟨h, hp⟩
  · exact ⟨h, hp⟩

/-- Completing the active segment, with no pulse in progress. -/
theorem completeActive_ok {a : Axis} {ts ts' : List Task} {after : List Task} (h : a.Core ts) (hp : a.pulse = none)
    (hsl : a.slot ≠ none)
    (hend : tasksEnd (after ++ ts') = true) (hs : (after ++ ts').any Task.settles = true) (hs' : (∀ act,
        a.slot = some act → act.seg.profile = none → ts'.any Task.settles = true)) :
    (a.completeActive after).Ok ts' := by
  unfold Axis.completeActive
  split
  · rename_i act hslot
    obtain ⟨hreach, hrp⟩ := homeReached_core h hp
    split
    · exact hreach.giving true hrp hend hs
    · rename_i hpr
      have := hs' act hslot hpr
      unfold Axis.doneAndClear
      split
      · split
        · exact Axis.Core.clearSlot (hreach.post _ _) hrp this
        · exact Axis.Core.clearSlot hreach hrp this
      · rename_i hn
        exact absurd hn (by rw [homeReached_slot, hslot]; simp)
  · rename_i hn; exact absurd hn hsl

/-- The four states that hold an active segment (R13). -/
theorem activeStates {st : AxisState} : st.active = true ↔ st = .running ∨ st = .armed ∨ st = .held ∨ st = .stopping := by
  cases st <;> simp [AxisState.active]

/-- Activation into an empty slot. -/
theorem activate_ok (table : Eight Entry) {a : Axis} {ts ts' : List Task} {g : Segment} (h : a.Core ts)
    (hslot : a.slot = none) (h1 : a.state ≠ .off) (h2 : a.state ≠ .faulted)
    (hp : ∀ t p, g.job = .park t p → within a.config t = true) (hend : tasksEnd ts' = true) :
    (Axis.activate table a g).Ok ts' := by
  have hnp : a.pulse = none := by
    cases hpu : a.pulse with
    | none => rfl
    | some pl => obtain ⟨-, act, hs, -⟩ := h.pulse pl hpu; simp [hslot] at hs
  have hnd : a.dwellMark = false := by
    cases hdm : a.dwellMark with
    | false => rfl
    | true => obtain ⟨act, hs, -⟩ := h.dwellMark hdm; simp [hslot] at hs
  have hpl : ∀ r, (a.placed g r).config = a.config ∧ (a.placed g r).state = a.state ∧
      (a.placed g r).position = a.position ∧
      (a.placed g r).positionValid = (a.positionValid && !g.isHome) ∧ (a.placed g r).faultKind = a.faultKind ∧
      (a.placed g r).dwellMark = a.dwellMark ∧ (a.placed g r).waiting = a.waiting ∧
      (a.placed g r).slot = some ⟨g, r.direction, r.count, r.count, r.clipped⟩ ∧ (a.placed g r).pulse = a.pulse ∧
      (a.placed g r).busy = a.busy ∧ (a.placed g r).pauseFlag = a.pauseFlag := by
    intro r; unfold Axis.placed; dsimp only; split <;> exact ⟨rfl, rfl, rfl, rfl, rfl, rfl, rfl, rfl, rfl, rfl, rfl⟩
  unfold Axis.activate
  split
  · rename_i hr
    -- a GOTO without a known position
    have hgoto : a.positionValid = false ∧ g.isDwell = false := by
      unfold Axis.resolve at hr
      split at hr <;> (try split at hr) <;> simp_all [Segment.isDwell]
    refine ⟨⟨?_, ?_, ?_, ?_, ?_, ?_, h.fault, h.off, h.queue, h.noPark, ?_, ?_, ?_⟩, ⟨h.config, h.known, ?_, ?_,
        ?_⟩⟩ <;>
      simp [Axis.unplaced, Busy.givesActive, Busy.settling, Busy.endsActive, Task.settles, hnp, hnd, hgoto, tasksEnd,
          Task.ends, hend]
  · rename_i r hr
    have hok := resolve_ok h.config h.known hp hr
    obtain ⟨e1, e2, e3, e4, e5, e6, e7, e8, e9, e10, e11⟩ := hpl r
    have hkn : a.positionValid = true ∧ g.isHome = false → within a.config a.position = true := fun x => h.known x.1
    have hpath : ∀ b : Axis, b.config = a.config → b.position = a.position → a.positionValid = true →
        g.isHome = false →
        b.pathWithin ⟨g, r.direction, r.count, r.count, r.clipped⟩ := by
      intro b f1 f3 hv hh
      have := hok.path hv hh
      unfold Axis.pathWithin
      rw [f1, f3]
      split <;> rename_i hd <;> simp at hd
      · exact this.1 hd
      · exact this.2 hd
      · trivial
    split
    · rename_i hz
      -- completes at once
      have hprof : g.profile ≠ none := by
        have := hz.2
        unfold Segment.isDwell at this; unfold Segment.profile
        cases hj : g.job <;> simp_all
      obtain ⟨k, hk⟩ := Option.ne_none_iff_exists'.mp hprof
      unfold Axis.completeActive
      generalize a.placed g r = b at *
      rw [e8]; simp only [hk]
      have hreach : b.homeReached.config = a.config ∧ b.homeReached.state = a.state ∧
          b.homeReached.faultKind = a.faultKind ∧
          b.homeReached.dwellMark = a.dwellMark ∧ b.homeReached.waiting = a.waiting ∧ b.homeReached.pulse = a.pulse ∧
          b.homeReached.pauseFlag = a.pauseFlag ∧
          (b.homeReached.positionValid = true → within a.config b.homeReached.position = true) ∧
          (b.homeReached.positionValid = true → g.isHome = false → b.homeReached.position = a.position ∧
              a.positionValid = true) := by
        unfold Axis.homeReached; simp only [e8]
        split
        · rename_i hh; simp [hh, *]; exact h.config.home
        · rename_i hh; simp [*]; exact fun x => hkn ⟨x, by simpa using hh⟩
      obtain ⟨f1, f2, f3, f4, f5, f6, f7, f8, f9⟩ := hreach
      have f10 := homeReached_slot b
      rw [e8] at f10
      generalize b.homeReached = b' at *
      refine ⟨⟨?_, ?_, ?_, ?_, ?_, ?_, ?_, ?_, ?_, ?_, ?_, ?_, ?_⟩, ⟨?_, ?_, ?_, ?_, ?_⟩⟩ <;>
        simp only [f1, f2, f3, f4, f5, f6, f7, f10]
      · intro w ts e; simp at e; rw [← e.2]; simp [tasksEnd, Task.ends, hend]
      · simp
      · simp [Busy.givesActive]
      · simp [Busy.settling, Task.settles]
      · simp [hnp]
      · simp [Busy.settling, Task.settles, Busy.endsActive]
      · exact h.fault
      · exact h.off
      · exact h.queue
      · exact h.noPark
      · simp
      · simp [hnd]
      · simpa using hok.dwell
      · exact h.config
      · exact f8
      · intro act ha hv hh
        cases ha
        obtain ⟨q1, q2⟩ := f9 hv hh
        exact hpath _ (by simp only []) q1 q2 hh
      · intro act ha; cases ha; exact ⟨le_refl _, hok.count⟩
      · simp
    · apply beginStep_core
      have hst : ((a.placed g r).enteredState g.gated).active = true ∧
          (a.placed g r).enteredState g.gated ≠ .stopping ∧
          (a.placed g r).enteredState g.gated ≠ .off ∧ (a.placed g r).enteredState g.gated ≠ .faulted := by
        unfold Axis.enteredState
        split
        · simp [AxisState.active]
        · split <;> simp [AxisState.active]
      generalize (a.placed g r).enteredState g.gated = st at *
      obtain ⟨hst, hns, hno, hnf⟩ := hst
      generalize a.placed g r = b at *
      have hf := h.fault; simp [h2] at hf
      refine ⟨?_, ?_, ?_, ?_, ?_, ?_, ?_, ?_, ?_, ?_, ?_, ?_, ?_, ?_, ?_⟩ <;>
        simp only [e1, e3, e4, e5, e6, e7, e8, e9, e10, e11]
      · exact h.busy
      · simp [hst]
      · simp
      · simp [hnp]
      · simp [hns]
      · simp [hf, hnf]
      · simp [hno]
      · exact h.queue
      · exact h.noPark
      · simp [hnd]
      · simpa using hok.dwell
      · exact h.config
      · simpa using hkn
      · intro act ha hv hh
        cases ha
        simp at hv
        exact hpath _ rfl rfl hv.1 hh
      · intro act ha; cases ha; exact ⟨le_refl _, hok.count⟩

/-- A waiting queue of at most four segments, none of them a PARK (R32). -/
theorem Axis.Core.setWaiting {a : Axis} {ts : List Task} (h : a.Core ts) {q : List Segment}
    (hl : q.length ≤ Config.queueDepth) (hq : ∀ g, g ∈ q → g.isPark = false) (ho : a.state = .off → q = []) :
    ({ a with waiting := q } : Axis).Core ts :=
  ⟨h.busy, h.empty, h.full, h.pulse, h.stopping, h.fault, fun x => ⟨ho x, (h.off x).2⟩, hl, hq, h.dwellMark, h.dwell,
      h.config, h.known, h.path, h.count⟩

/-- An axis with an empty slot has no pulse in progress. -/
theorem Axis.Core.noPulse {a : Axis} {ts : List Task} (h : a.Core ts) (hs : a.slot = none) : a.pulse = none := by
  cases hpu : a.pulse with
  | none => rfl
  | some pl => obtain ⟨-, act, hs', -⟩ := h.pulse pl hpu; simp [hs] at hs'

/-- An axis with an empty slot has its dwell mark clear. -/
theorem Axis.Core.noMark {a : Axis} {ts : List Task} (h : a.Core ts) (hs : a.slot = none) : a.dwellMark = false := by
  cases hdm : a.dwellMark with
  | false => rfl
  | true => obtain ⟨act, hs', -⟩ := h.dwellMark hdm; simp [hs] at hs'

/-- An axis with an empty slot that takes a state without a segment. -/
theorem Axis.Core.rest {a : Axis} {ts ts' : List Task} (h : a.Core ts)
    (hs : a.slot = none) {st : AxisState} {f : Option FaultCause} {pf : Bool}
    (h1 : st.active = false) (hf : f = none ↔ st ≠ .faulted) (ho : st = .off → a.waiting = [] ∧ pf = false) :
    ({ a with state := st, faultKind := f, pauseFlag := pf } : Axis).Core ts' := by
  refine ⟨h.busy, ?_, ?_, ?_, ?_, hf, ho, h.queue, h.noPark, h.dwellMark, h.dwell, h.config, h.known, ?_, h.count⟩
  · intro _; exact hs
  · intro x; simp [h1] at x
  · intro pl hp; rw [h.noPulse hs] at hp; simp at hp
  · rintro x; simp at x; subst x; simp [AxisState.active] at h1
  · intro act ha; simp [hs] at ha

/-- In a list that gives the axis a state, what ends the segment is followed by what settles the state. -/
theorem settles_of_ends {ts : List Task} (h : tasksEnd ts = true)
    (he : ts.any Task.ends = true) : ts.any Task.settles = true := by
  induction ts with
  | nil => simp at he
  | cons t ts ih =>
    simp only [tasksEnd, Bool.and_eq_true, Bool.or_eq_true] at h
    simp only [List.any_cons, Bool.or_eq_true] at he ⊢
    rcases he with x | x
    · rcases h.1 with y | y
      · simp [x] at y
      · exact .inr y
    · exact .inr (ih h.2 x)

/-- A task that changes nothing is behind the axis. -/
theorem Axis.Core.tail {a : Axis} {t : Task} {ts : List Task} (h : a.Core (t :: ts)) (he : t.ends = false)
    (hte : tasksEnd ts = true)
    (hs : a.slot ≠ none ∨ t.settles = false) : a.Core ts := by
  refine ⟨h.busy, h.empty, ?_, h.pulse, ?_, h.fault, h.off, h.queue, h.noPark, h.dwellMark, h.dwell, h.config,
      h.known, h.path, h.count⟩
  · intro x; rcases h.full x with y | y
    · exact .inl y
    · rcases hs with z | z
      · exact .inl z
      · exact .inr (by simpa [z] using y)
  · intro x; rcases h.stopping x with y | ⟨y, z | z⟩
    · exact .inl y
    · rcases hs with q | q
      · exact absurd z q
      · exact .inr ⟨by simpa [q] using y, .inl z⟩
    · have : ts.any Task.ends = true := by simpa [he] using z
      exact .inr ⟨settles_of_ends hte this, .inr this⟩

/-- Entering IDLE (R12). -/
theorem idleWith_core {a : Axis} {ts : List Task} {t : Task} (h : a.Core (t :: ts)) (ht : t.ends = false)
    (hte : tasksEnd ts = true) (notice : Bool) :
    (a.idleWith notice).Core ts := by
  unfold Axis.idleWith
  split
  · rename_i hs
    have := h.rest (ts' := ts) hs (st := .idle) (f := none) (pf := a.pauseFlag) (by simp [AxisState.active])
        (by simp) (by simp)
    dsimp only
    split
    · exact this.post _ _
    · exact this
  · rename_i act hs
    exact h.tail ht hte (.inl (by simp [hs]))

/-- Activating the head of the queue (R42). -/
theorem activateHead_ok (table : Eight Entry) {a : Axis} {ts0 ts : List Task} (h : a.Core ts0)
    (hte : tasksEnd ts = true)
    (hstay : a.mayActivate = false → a.Core ts) (hnil : a.waiting = [] → a.Core ts) :
        (Axis.activateHead table a).Ok ts := by
  unfold Axis.activateHead
  split
  · rename_i g rest hw hm
    simp [Axis.mayActivate] at hm
    obtain ⟨m1, m2, m3⟩ := hm
    have hq := h.queue
    have hnp := h.noPark
    rw [hw] at hq hnp
    have hmoved := h.setWaiting (q := rest) (by simp at hq; omega) (fun x hx => hnp x (by simp [hx]))
        (fun x => absurd x m2)
    dsimp only
    have hg : ∀ t p, g.job = .park t p → False := by
      intro t p hj; have := hnp g (by simp); simp [Segment.isPark, hj] at this
    split
    · exact activate_ok table (hmoved.post _ _) m1 m2 m3 (fun t p hj => (hg t p hj).elim) hte
    · exact activate_ok table hmoved m1 m2 m3 (fun t p hj => (hg t p hj).elim) hte
  · rename_i hx
    show a.Core ts
    cases hw : a.waiting with
    | nil => exact hnil hw
    | cons g r =>
      cases hm : a.mayActivate with
      | false => exact hstay hm
      | true => exact absurd hm (hx g r hw)

/-- What each task of an event gives, from an axis that is ready for it. -/
theorem doTask_ok (table : Eight Entry) {a : Axis} {t : Task} {ts : List Task} (h : a.Core (t :: ts))
    (hte : tasksEnd (t :: ts) = true) :
    (Axis.doTask table a t).Ok ts := by
  have hts : tasksEnd ts = true := by simp [tasksEnd] at hte; exact hte.2
  have hend : t.ends = true → ts.any Task.settles = true := by
    intro x; simp only [tasksEnd, x, Bool.and_eq_true, Bool.or_eq_true] at hte; simpa using hte.1
  have hdrop : ∀ l : List Segment, (l.dropWhile Segment.isDwell).length ≤ l.length ∧ ∀ g,
      g ∈ l.dropWhile Segment.isDwell → g ∈ l := by
    intro l; exact ⟨(List.dropWhile_sublist _).length_le, fun g hg => (List.dropWhile_sublist _).subset hg⟩
  cases t with
  | dropWaiting =>
    have h' := h.tail rfl hts (.inr rfl)
    simp only [Axis.doTask]
    split
    · exact h'.setWaiting (by simp) (by simp) (by simp)
    · rename_i q hq
      obtain ⟨d1, d2⟩ := hdrop a.waiting
      have hc := h'.setWaiting (q := a.waiting.dropWhile Segment.isDwell) (by have := h.queue; omega)
          (fun g hg => h.noPark g (d2 g hg))
        (by intro x; simp [(h.off x).1])
      exact hc.givingWaiting (by simp) (by simpa [tasksEnd, Task.ends] using hts) (by intro x; simp [x])
          (by intro x; simp [x])
  | dropActive =>
    simp only [Axis.doTask]
    have hs := hend rfl
    split
    · rename_i act hsl hp
      split
      · exact h.giving false hp hts hs
      · exact h.clearSlot hp hs
    · rename_i hx
      show a.Core ts
      have : a.slot = none ∨ ∃ pl, a.pulse = some pl := by
        cases hsl : a.slot with
        | none => exact .inl rfl
        | some act => cases hp : a.pulse with
          | none => exact (hx act hsl hp).elim
          | some pl => exact .inr ⟨pl, rfl⟩
      refine ⟨h.busy, h.empty, fun _ => .inr hs, h.pulse, ?_, h.fault, h.off, h.queue, h.noPark, h.dwellMark,
          h.dwell, h.config, h.known, h.path, h.count⟩
      intro _
      rcases this with y | ⟨pl, y⟩
      · exact .inr ⟨hs, .inl y⟩
      · exact .inl (by simp [y])
  | complete =>
    simp only [Axis.doTask]
    have hs := hend rfl
    split
    · rename_i hp
      by_cases hsl : a.slot = none
      · unfold Axis.completeActive; rw [hsl]
        show a.Core ts
        refine ⟨h.busy, h.empty, fun _ => .inr hs, h.pulse, fun _ => .inr ⟨hs, .inl hsl⟩, h.fault, h.off, h.queue,
            h.noPark, h.dwellMark, h.dwell, h.config, h.known, h.path, h.count⟩
      · exact completeActive_ok h hp hsl (by simpa using hts) (by simpa using hs) (fun _ _ _ => hs)
    · rename_i pl hp
      refine ⟨h.busy, h.empty, fun _ => .inr hs, h.pulse, fun _ => .inl (by simp [hp]), h.fault, h.off, h.queue,
          h.noPark, h.dwellMark, h.dwell, h.config, h.known, h.path, h.count⟩
  | next =>
    simp only [Axis.doTask]
    split
    · exact idleWith_core h rfl hts true
    · rename_i g r hw
      apply activateHead_ok table h hts
      · intro hm
        simp [Axis.mayActivate] at hm
        by_cases hsl : a.slot = none
        · have hst : a.state = .off ∨ a.state = .faulted := by
            by_cases x : a.state = .off
            · exact .inl x
            · exact .inr (hm hsl x)
          have : a.state.active = false := by rcases hst with x | x <;> rw [x] <;> rfl
          have := h.rest (ts' := ts) hsl (pf := a.pauseFlag) this h.fault h.off
          exact this
        · exact h.tail rfl hts (.inl hsl)
      · intro hw'; simp [hw] at hw'
  | enterIdle notice => exact idleWith_core h rfl hts notice
  | wake =>
    simp only [Axis.doTask]
    have h' := h.tail rfl hts (.inr rfl)
    split
    · exact activateHead_ok table h hts (fun _ => h') (fun _ => h')
    · exact h'
  | enterFaulted cause =>
    simp only [Axis.doTask]
    show (a.faultNow cause).Core ts
    unfold Axis.faultNow
    split
    · rename_i hs
      exact (h.rest (ts' := ts) hs (st := .faulted) (f := some cause) (pf := a.pauseFlag) rfl (by simp)
          (by simp)).post _ _
    · rename_i act hs
      exact h.tail rfl hts (.inl (by simp [hs]))
  | park =>
    simp only [Axis.doTask]
    have h' := h.tail rfl hts (.inr rfl)
    split
    · rename_i hc
      obtain ⟨hv, hst, hsl⟩ := hc
      have hf := h.fault
      rw [hst] at hf; simp at hf
      refine ⟨⟨?_, ?_, ?_, ?_, ?_, ?_, h.fault, h.off, h.queue, h.noPark, ?_, h.dwellMark, h.dwell⟩, ⟨h.config,
          h.known, h.path, h.count, ?_⟩⟩ <;>
        simp [Busy.givesActive, Busy.settling, hst, hsl, AxisState.active, hts, h.noPulse hsl]
    · exact h'
  | finishPulse why =>
    simp only [Axis.doTask]
    have h' := h.tail rfl hts (.inr rfl)
    show (a.finishing why).Core ts
    unfold Axis.finishing
    split
    · rename_i pl hp
      obtain ⟨q1, q2⟩ := h.pulse pl hp
      have hne : a.slot ≠ none := by obtain ⟨act, x, -⟩ := q2; simp [x]
      have hf : a.faultKind = none := by
        have := h.fault; rw [q1] at this
        refine this.mpr ?_
        cases pl.endAction <;> simp [EndAction.runsIn]
      refine ⟨h.busy, ?_, ?_, ?_, ?_, ?_, ?_, h.queue, h.noPark, h.dwellMark, h.dwell, h.config, h.known, h.path,
          h.count⟩
      · simp [AxisState.active]
      · intro _; exact .inl hne
      · intro pl' x; simp at x; subst x
        refine ⟨?_, q2⟩
        dsimp only
        split <;> rfl
      · simp
      · simp [hf]
      · simp
    · exact h'
  | clearPause =>
    have h' := h.tail rfl hts (.inr rfl)
    exact ⟨h'.busy, h'.empty, h'.full, h'.pulse, h'.stopping, h'.fault, fun x => ⟨(h'.off x).1, rfl⟩, h'.queue,
        h'.noPark, h'.dwellMark, h'.dwell, h'.config, h'.known, h'.path, h'.count⟩
  | enterOff =>
    have h' := h.tail rfl hts (.inr rfl)
    simp only [Axis.doTask]
    show a.offNow.Core ts
    unfold Axis.offNow
    split
    · rename_i hs hw
      exact h.rest (ts' := ts) hs (st := .off) (f := none) (pf := false) rfl (by simp) (fun _ => ⟨hw, rfl⟩)
    · exact h'
  | expire =>
    have h' := h.tail rfl hts (.inr rfl)
    exact beginStep_core table (h'.congr rfl rfl rfl rfl rfl rfl rfl rfl rfl rfl rfl)
  | begin =>
    exact beginStep_core table (h.tail rfl hts (.inr rfl))
  | cancel port tag removed =>
    have h' := h.tail rfl hts (.inr rfl)
    simp only [Axis.doTask]
    split
    · exact h'.givingWaiting (by simp) (by simpa [tasksEnd, Task.ends] using hts) (by intro x; simp [x])
        (by intro x; simp [x])
    · exact h'.setWaiting (by have := h.queue; have := List.length_filter_le (fun g : Segment => g.tag != tag) a.waiting; omega)
        (fun g hg => h.noPark g (List.mem_of_mem_filter hg)) (by intro x; simp [(h.off x).1])
  | replyLength port => exact h.tail rfl hts (.inr rfl)
  | send x => exact h.tail rfl hts (.inr rfl)

/-- A list of tasks brings a ready axis to a sound one. -/
theorem run_ok (table : Eight Entry) (ts : List Task) : ∀ a : Axis, a.Core ts → tasksEnd ts = true →
    (Axis.run table ts a).1.Ok := by
  induction ts with
  | nil => intro a h _; exact h.shaped
  | cons t ts ih =>
    intro a h hte
    have := doTask_ok table h hte
    have hts : tasksEnd ts = true := by simp [tasksEnd] at hte; exact hte.2
    unfold Axis.run
    split <;> rename_i hd <;> rw [hd] at this
    · exact ih _ this hts
    · exact this
    · exact this

/-- Going on with an event brings a sound axis. -/
theorem andThen_ok (table : Eight Entry) {r : TaskResult} {ts : List Task} (h : r.Ok ts) (hte : tasksEnd ts = true) :
    (r.andThen table ts).1.Ok := by
  unfold TaskResult.andThen
  split
  · exact run_ok table ts _ h hte
  · exact h
  · exact h

end Sys2Proof.Machine
end

