-- ==== Sys2Proof/Laws/AxisEvents.lean ====
section
/-! SUPPORT. What the operations that a whole event of an axis controller is made of keep: the give taken,
the passing of time, pulse ends, expiries, overcurrents, holds. -/

namespace Sys2Proof.Machine

/-- `b` has the control fields of `a`; mailboxes, timers and the pulse's elapsed time may differ. -/
structure Axis.Like (a b : Axis) : Prop where
  config : b.config = a.config
  state : b.state = a.state
  position : b.position = a.position
  positionValid : b.positionValid = a.positionValid
  faultKind : b.faultKind = a.faultKind
  dwellMark : b.dwellMark = a.dwellMark
  waiting : b.waiting = a.waiting
  slot : b.slot = a.slot
  pauseFlag : b.pauseFlag = a.pauseFlag
  busy : b.busy = a.busy
  pulse : (b.pulse = none ↔ a.pulse = none) ∧
    ∀ pl, b.pulse = some pl → ∃ pl', a.pulse = some pl' ∧ pl'.direction = pl.direction ∧ pl'.endAction = pl.endAction

/-- Soundness reads only the fields that `Axis.Like` names. -/
theorem Axis.Like.ok {a b : Axis} (h : a.Like b) (o : a.Ok) : b.Ok := by
  obtain ⟨⟨c1,c2,c3,c4,c5,c6,c7,c8,c9,c10,c11,c12,c13⟩, ⟨d1,d2,d3,d4,d5⟩⟩ := o
  obtain ⟨h1,h2,h3,h4,h5,h6,h7,h8,h9,h10,h11,h12⟩ := h
  refine ⟨⟨?_,?_,?_,?_,?_,?_,?_,?_,?_,?_,?_,?_,?_⟩, ⟨?_,?_,?_,?_,?_⟩⟩ <;> simp only [h1,h2,h3,h4,h5,h6,h7,h8,h9,h10,
      Axis.pathWithin, ne_eq, h11] <;> try assumption
  intro pl hp
  obtain ⟨pl', e1, e2, e3⟩ := h12 pl hp
  have := c5 pl' e1
  rw [e3, e2] at this; exact this

/-- An axis is like itself. -/
theorem Axis.Like.refl (a : Axis) : a.Like a := ⟨rfl,rfl,rfl,rfl,rfl,rfl,rfl,rfl,rfl,rfl,Iff.rfl, fun pl h => ⟨pl, h,
    rfl, rfl⟩⟩

/-- The passing of time changes none of the fields that soundness reads. -/
theorem Axis.advance_like (a : Axis) (d : Nat) : a.Like (a.advance d) := by
  refine ⟨rfl,rfl,rfl,rfl,rfl,rfl,rfl,rfl,rfl,rfl,?_,?_⟩ <;> unfold Axis.advance <;> dsimp only
  · split <;> simp
  · intro pl; split
    · intro h; exact ⟨pl, h, rfl, rfl⟩
    · intro h
      simp at h
      obtain ⟨a', h1, h2⟩ := h
      subst h2
      exact ⟨a', h1, rfl, rfl⟩

/-- A free axis is ready for an event's tasks. -/
theorem Axis.Ok.core {a : Axis} (o : a.Ok) (hb : a.busy = .none) (ts : List Task) : a.Core ts := by
  obtain ⟨⟨c1,c2,c3,c4,c5,c6,c7,c8,c9,c10,c11,c12,c13⟩, ⟨d1,d2,d3,d4,d5⟩⟩ := o
  simp [hb, Busy.givesActive, Busy.settling] at c3 c4 c5 c6
  exact ⟨hb, c3, fun x => .inl (c4 x), c5, fun x => .inl (c6 x), c7, c8, c9, c10, c12, c13, d1, d2, d3, d4⟩

/-- An axis that waits for an answer about nothing of its own is, once it has it, ready as well. -/
theorem Axis.Ok.coreOf {a : Axis} (o : a.Ok) (hb : (∀ w ts, a.busy ≠ .give w ts)) (ts : List Task) :
    ({ a with busy := .none } : Axis).Core ts := by
  obtain ⟨⟨c1,c2,c3,c4,c5,c6,c7,c8,c9,c10,c11,c12,c13⟩, ⟨d1,d2,d3,d4,d5⟩⟩ := o
  have g1 : a.busy.givesActive = false := by cases h : a.busy <;> simp_all [Busy.givesActive]
  have g2 : a.busy.settling = false := by cases h : a.busy <;> simp_all [Busy.settling]
  simp [g1, g2] at c3 c4 c5 c6
  exact ⟨rfl, c3, fun x => .inl (c4 x), c5, fun x => .inl (c6 x), c7, c8, c9, c10, c12, c13, d1, d2, d3, d4⟩

/-- A free axis with slot and state settled may wait for something plain. -/
theorem Axis.Core.plain {a : Axis} (h : a.Core []) {b : Busy} (hb : ∀ w ts, b ≠ .give w ts) (hp : ∀ ts,
    b ≠ .parkTake ts)
    (ha : ∀ p g, b = .admission p g → a.waiting.length < Config.queueDepth ∧ g.isPark = false ∧ a.state ≠ .off ∧
        a.state ≠ .faulted)
    (hc : ∀ p c, b = .configure p c → c.Valid ∧ a.slot = none ∧ (a.positionValid = true →
        within c a.position = true)) :
    ({ a with busy := b } : Axis).Ok := by
  have g1 : b.givesActive = false := by cases b <;> simp_all [Busy.givesActive]
  have hf := h.full; have hs := h.stopping
  simp at hf hs
  refine ⟨⟨?_, ?_, ?_, ?_, ?_, ?_, h.fault, h.off, h.queue, h.noPark, ha, h.dwellMark, h.dwell⟩, ⟨h.config, h.known,
      h.path, h.count, hc⟩⟩
  · intro w ts e; exact absurd e (hb w ts)
  · intro ts e; exact absurd e (hp ts)
  · intro x; exact .inl (h.empty x)
  · intro x; exact .inl ⟨hf x, g1⟩
  · intro pl x; obtain ⟨y, z⟩ := h.pulse pl x; exact ⟨y, g1, z⟩
  · intro x; exact .inl (hs x)

/-- Once the store has taken a give, the axis is ready for the tasks behind it (R31, R91). -/
theorem left_core {a : Axis} {what : Leaving} {ts : List Task} (o : a.Ok) (hb : a.busy = .give what ts) :
    (({ a with busy := .none } : Axis).left what).Core ts ∧ tasksEnd ts = true := by
  obtain ⟨⟨c1,c2,c3,c4,c5,c6,c7,c8,c9,c10,c11,c12,c13⟩, ⟨d1,d2,d3,d4,d5⟩⟩ := o
  have hte := c1 what ts hb
  refine ⟨?_, hte⟩
  simp only [hb, Busy.settling] at c4 c6
  have waitingCase : ∀ q : List Segment, q.length ≤ a.waiting.length → (∀ g, g ∈ q → g ∈ a.waiting) → (∀ c,
      what ≠ .active c) →
      ({ a with busy := .none, waiting := q } : Axis).Core ts := by
    intro q hq hm hw
    have g1 : a.busy.givesActive = false := by rw [hb]; cases what <;> simp_all [Busy.givesActive]
    have g2 : a.busy.endsActive = ts.any Task.ends := by rw [hb]; cases what <;> simp_all [Busy.endsActive]
    rw [hb] at g1 g2
    simp only [hb, g1, g2] at c3 c4 c5 c6
    refine ⟨rfl, ?_, ?_, ?_, ?_, c7, ?_, by dsimp only; omega, fun g hg => c10 g (hm g hg), c12, c13, d1, d2, d3, d4⟩
    · simpa using c3
    · intro x; rcases c4 x with ⟨y, -⟩ | y
      · exact .inl y
      · exact .inr y
    · intro pl x; obtain ⟨y, -, z⟩ := c5 pl x; exact ⟨y, z⟩
    · exact c6
    · intro x; obtain ⟨y, z⟩ := c8 x
      refine ⟨?_, z⟩
      rw [y] at hq; simpa using hq
  have activeCase : ∀ c, what = .active c → ({ a with busy := .none } : Axis).pulse = none ∧
      ts.any Task.settles = true ∨ a.state.active = false ∧ a.pulse = none := by
    intro c hc
    have g1 : a.busy.givesActive = true := by rw [hb, hc]; rfl
    have hp : a.pulse = none := by
      cases hpu : a.pulse with
      | none => rfl
      | some pl => obtain ⟨-, y, -⟩ := c5 pl hpu; rw [g1] at y; simp at y
    cases hst : a.state.active with
    | false => exact .inr ⟨rfl, hp⟩
    | true =>
      left; refine ⟨hp, ?_⟩
      rcases c4 hst with ⟨-, y⟩ | y
      · rw [← hb, g1] at y; simp at y
      · exact y
  have emptyCase : ∀ c, what = .active c → ∀ b : Axis, b.slot = none → b.dwellMark = false → b.busy = .none →
      b.config = a.config → b.state = a.state →
      b.position = a.position → b.positionValid = a.positionValid → b.faultKind = a.faultKind →
          b.waiting = a.waiting →
      b.pulse = a.pulse → b.pauseFlag = a.pauseFlag → b.Core ts := by
    intro c hc b e0 e1 e2 e3 e4 e5 e6 e7 e8 e9 e10
    have hst : a.state.active = true → ts.any Task.settles = true := by
      intro x; rcases activeCase c hc with ⟨-, y⟩ | ⟨y, -⟩
      · exact y
      · simp [x] at y
    have hp : a.pulse = none := by rcases activeCase c hc with ⟨y, -⟩ | ⟨-, y⟩ <;> exact y
    refine ⟨e2, ?_, ?_, ?_, ?_, ?_, ?_, ?_, ?_, ?_, ?_, ?_, ?_, ?_, ?_⟩ <;> simp only [e0, e1, e3, e4, e5, e6, e7,
        e8, e9, e10, hp]
    · simp
    · intro x; exact .inr (hst x)
    · simp
    · intro x; exact .inr ⟨hst (by rw [x]; rfl), .inl trivial⟩
    · exact c7
    · exact c8
    · exact c9
    · exact c10
    · simp
    · simp
    · exact d1
    · exact d2
    · simp
    · simp
  cases what with
  | oldest => exact waitingCase _ (by simp) (fun g hg => List.mem_of_mem_tail hg) (by simp)
  | tagged tag => exact waitingCase _ (List.length_eraseP_le) (fun g hg => List.mem_of_mem_eraseP hg) (by simp)
  | active c =>
    cases c with
    | false => exact emptyCase false rfl _ rfl rfl rfl rfl rfl rfl rfl rfl rfl rfl rfl
    | true =>
      simp only [Axis.left, Axis.doneAndClear]
      split
      · split <;> exact emptyCase true rfl _ rfl rfl rfl rfl rfl rfl rfl rfl rfl rfl rfl
      · rename_i hs
        refine emptyCase true rfl _ hs ?_ rfl rfl rfl rfl rfl rfl rfl rfl rfl
        cases hdm : a.dwellMark with
        | false => rfl
        | true => obtain ⟨act, h, -⟩ := c12 hdm; rw [hs] at h; simp at h

/-- Soundness of every axis, where each keeps the fields it reads. -/
theorem like_of {s t : State} (h : ∀ m, (s.axis m).Like (t.axis m))
    (o : s.AxesSound) : t.AxesSound := fun m => (h m).ok (o m)

/-- The events of a port unit keep the fields that soundness reads. -/
theorem SameButPorts.like {s t : State} (h : s.SameButPorts t) : ∀ m, (s.axis m).Like (t.axis m) := by
  intro m
  obtain ⟨b, hb⟩ := h.axes m
  rw [hb]
  exact ⟨rfl,rfl,rfl,rfl,rfl,rfl,rfl,rfl,rfl,rfl,Iff.rfl, fun pl h => ⟨pl, h, rfl, rfl⟩⟩

/-- An event of one axis controller that leaves its axis sound keeps all of them sound. -/
theorem finish_ok {s : State} {n : AxisId} {r : Axis × List Sent} (h : r.1.Ok) (o : ∀ m, m ≠ n → (s.axis m).Ok) :
    (s.finish n r).AxesSound := by
  intro m
  rw [State.finish_axis]
  split
  · exact h
  · exact o m ‹_›

/-- Replacing an axis by a sound one keeps all of them sound. -/
theorem setAxis_ok {s : State} {n : AxisId} {a : Axis} (h : a.Ok) (o : s.AxesSound) : (s.setAxis n a).AxesSound := by
  intro m
  rw [State.axis_setAxis]
  split
  · exact h
  · exact o m

/-- An axis that takes what the claim unit sent it is ready for the tasks of its event. -/
theorem offer_core {a : Axis} {m : AxisMsg} (o : a.Ok) (h : a.offer = some m) (ts : List Task) : a.taken.Core ts := by
  unfold Axis.offer at h
  split at h
  · rename_i hf
    simp [Axis.free] at hf
    exact (o.core hf ts).congr rfl rfl rfl rfl rfl rfl rfl rfl rfl rfl rfl
  · simp at h

/-- A task at the end that ends no segment. -/
theorem tasksEnd_tail {xs : List Task} {t : Task} (h : tasksEnd xs = true)
    (ht : t.ends = false) : tasksEnd (xs ++ [t]) = true :=
  tasksEnd_append h (by simp [tasksEnd, ht])

/-- The tasks of a STOP give the axis a state (R76). -/
theorem stopTasks_end (a : Axis) : tasksEnd a.stopTasks = true := by
  unfold Axis.stopTasks; split <;> (try split) <;> rfl

/-- The tasks of a PARK-type action give the axis a state (R77, R108). -/
theorem parkTasks_end (a : Axis) : tasksEnd a.parkTasks = true := by
  unfold Axis.parkTasks; split <;> (try split) <;> rfl

/-- The tasks of a lapse give the axis a state (R5). -/
theorem lapseTasks_end (a : Axis) : tasksEnd a.lapseTasks = true := by
  unfold Axis.lapseTasks; split
  · exact stopTasks_end a
  · exact parkTasks_end a
  · rfl

/-- The tasks of a restart step give the axis a state (R27). -/
theorem restartTasks_end (a : Axis) : tasksEnd a.restartTasks = true := by
  unfold Axis.restartTasks; split <;> (try split) <;> rfl

/-- A whole event of an axis controller that is ready for its tasks keeps every axis sound. -/
theorem runAxis_ok {s : State} {n : AxisId} {a : Axis} {ts : List Task} (h : a.Core ts) (hte : tasksEnd ts = true)
    (o : s.AxesSound) :
    (s.runAxis n a ts).AxesSound :=
  finish_ok (run_ok _ _ _ h hte) (fun m _ => o m)

/-- A change of a hold cause keeps an axis ready (R67, R69). -/
theorem holdChanged_core (table : Eight Entry) {a : Axis} (h : a.Core []) : (Axis.holdChanged table a).Core [] := by
  have hf := h.full; have hs := h.stopping
  simp at hf hs
  unfold Axis.holdChanged
  split
  · split
    · rename_i hc
      refine ⟨h.busy, ?_, ?_, ?_, ?_, ?_, ?_, h.queue, h.noPark, h.dwellMark, h.dwell, h.config, h.known, h.path,
          h.count⟩
      · simp [AxisState.active]
      · intro _; left; exact hf (by rw [hc.1]; rfl)
      · simp [hc.2]
      · simp
      · have := h.fault; rw [hc.1] at this; simpa using this
      · simp
    · exact h
  · split
    · rename_i hc
      apply beginStep_core
      have hp : a.pulse = none := by
        cases hpu : a.pulse with
        | none => rfl
        | some pl => have := (h.pulse pl hpu).1; rw [hc] at this; cases hh : pl.endAction <;> simp [hh,
            EndAction.runsIn] at this
      refine ⟨h.busy, ?_, ?_, ?_, ?_, ?_, ?_, h.queue, h.noPark, h.dwellMark, h.dwell, h.config, h.known, h.path,
          h.count⟩
      · simp [AxisState.active]
      · intro _; left; exact hf (by rw [hc]; rfl)
      · simp [hp]
      · simp
      · have := h.fault; rw [hc] at this; simpa using this
      · simp
    · exact h

/-- An axis with no task left is ready for any. -/
theorem Axis.Core.any {a : Axis} (h : a.Core []) (ts) : a.Core ts := h.weaken (by simp) (by simp)

/-- Writing pause_flag outside OFF keeps an axis ready (R9). -/
theorem setPause_core {a : Axis} (h : a.Core []) (b : Bool) (hs : a.state ≠ .off) :
    ({ a with pauseFlag := b } : Axis).Core [] :=
  ⟨h.busy, h.empty, h.full, h.pulse, h.stopping, h.fault, fun x => absurd x hs, h.queue, h.noPark, h.dwellMark,
      h.dwell, h.config, h.known, h.path, h.count⟩

/-- A cold axis is sound (R6). -/
theorem cold_ok : Axis.cold.Ok := by
  have hv : AxisConfig.cold.Valid := ⟨by decide, by decide, by decide, by decide⟩
  refine ⟨⟨?_, ?_, ?_, ?_, ?_, ?_, ?_, ?_, ?_, ?_, ?_, ?_, ?_⟩, ⟨hv, ?_, ?_, ?_, ?_⟩⟩ <;> simp [Axis.cold,
      AxisState.active]

/-- A pulse end brings a sound axis (R63, R64, R79). -/
theorem pulseEnd_ok (table : Eight Entry) {a : Axis} {pl : Pulse} {w : Bool} (h : a.Core [])
    (hp : a.pulse = some pl) :
    (Axis.pulseEnd table a pl w).1.Ok := by
  obtain ⟨hst, act, hsl, hdir, hrem⟩ := h.pulse pl hp
  -- the counted axis
  have hc : ∃ b : Axis, a.stepCounts pl = b ∧ b.config = a.config ∧ b.state = a.state ∧
      b.positionValid = a.positionValid ∧
      b.position = a.stepped pl.direction act.seg ∧
      b.faultKind = a.faultKind ∧ b.dwellMark = a.dwellMark ∧ b.waiting = a.waiting ∧
      b.slot = some { act with remaining := act.remaining - 1 } ∧ b.pulse = none ∧ b.busy = a.busy ∧
          b.pauseFlag = a.pauseFlag := by
    refine ⟨_, rfl, ?_⟩
    unfold Axis.stepCounts
    rw [hsl]; dsimp only
    split <;> exact ⟨rfl, rfl, rfl, rfl, rfl, rfl, rfl, rfl, rfl, rfl, rfl⟩
  obtain ⟨b, hb, e1, e2, e3, e4, e5, e6, e7, e8, e9, e10, e11⟩ := hc
  have hact : a.state.active = true ∧ a.state ≠ .off ∧ a.state ≠ .faulted ∧ a.state ≠ .armed := by
    rw [hst]; cases pl.endAction <;> simp [EndAction.runsIn, AxisState.active]
  have hdm : a.dwellMark = false := by
    cases hdm : a.dwellMark with
    | false => rfl
    | true =>
      obtain ⟨act', x, y⟩ := h.dwellMark hdm
      rw [hsl] at x; cases x
      have := h.dwell act hsl y; rw [hdir] at this; simp at this
  have hknown : a.positionValid = true → within a.config (a.stepped pl.direction act.seg) = true ∧
      (act.seg.isHome = false → ∀ c : Axis, c.config = a.config → c.position = a.stepped pl.direction act.seg →
        c.pathWithin { act with remaining := act.remaining - 1 }) := by
    intro hv
    have hk := h.known hv
    unfold Axis.stepped
    cases hh : act.seg.isHome with
    | true => simp [hv, hk]
    | false =>
      have hpath := h.path act hsl hv hh
      simp only [hv, and_self, if_true]
      have hl := a.position.isLt
      have hhi := a.config.hiLimit.isLt
      unfold within at hk; simp at hk
      cases hd : pl.direction with
      | forward =>
        rw [hd] at hdir
        simp only [Axis.pathWithin, hdir] at hpath
        have ht : (a.position + 1).toNat = a.position.toNat + 1 := by
          have h1 : (1 : Word16).toNat = 1 := rfl
          rw [BitVec.toNat_add, h1]; omega
        refine ⟨by unfold within; rw [decide_eq_true_iff]; simp only [ht]; omega, ?_⟩
        intro _ c f1 f2
        simp only [Axis.pathWithin, hdir, f1, f2, ht]; omega
      | reverse =>
        rw [hd] at hdir
        simp only [Axis.pathWithin, hdir] at hpath
        have ht : (a.position - 1).toNat = a.position.toNat - 1 := by
          have h1 : (1 : Word16).toNat = 1 := rfl
          rw [BitVec.toNat_sub, h1]; omega
        refine ⟨by unfold within; rw [decide_eq_true_iff]; simp only [ht]; omega, ?_⟩
        intro _ c f1 f2
        simp only [Axis.pathWithin, hdir, f1, f2, ht]; omega
  have hdw : ∀ x : act.seg.isDwell = true, act.direction = none := h.dwell act hsl
  -- any state that keeps the segment
  have core : ∀ st ts, st = a.state ∨ st = .held → (a.state = .stopping → ts.any Task.ends = true ∧
      ts.any Task.settles = true) →
      ({ b with state := st } : Axis).Core ts := by
    intro st ts hs hq
    have hs' : st.active = true ∧ st ≠ .off ∧ st ≠ .faulted := by
      rcases hs with x | x <;> subst x
      · exact ⟨hact.1, hact.2.1, hact.2.2.1⟩
      · simp [AxisState.active]
    refine ⟨?_, ?_, ?_, ?_, ?_, ?_, ?_, ?_, ?_, ?_, ?_, ?_, ?_, ?_, ?_⟩ <;> simp only [e1, e3, e4, e5, e6, e7, e8,
        e9, e10, e11]
    · exact h.busy
    · intro x; simp [hs'.1] at x
    · simp
    · simp
    · rintro x
      have : a.state = .stopping := by
        rcases hs with y | y
        · rw [← y]; exact x
        · subst y; simp at x
      exact .inr ⟨(hq this).2, .inr (hq this).1⟩
    · have := h.fault; simp [hact.2.2.1] at this; simp [this, hs'.2.2]
    · simp [hs'.2.1]
    · exact h.queue
    · exact h.noPark
    · simp [hdm]
    · intro x y z; cases y; exact hdw z
    · exact h.config
    · intro hv; exact (hknown hv).1
    · intro act' ha hv hh; cases ha; exact (hknown hv).2 hh _ rfl rfl
    · intro act' ha; cases ha; have := h.count act hsl; simp; omega
  have selfb : ({ b with state := a.state } : Axis) = b := by rw [← e2]
  have coreb : ∀ ts, (a.state = .stopping → ts.any Task.ends = true ∧ ts.any Task.settles = true) → b.Core ts := by
    intro ts hq; have := core a.state ts (.inl rfl) hq; rw [selfb] at this; exact this
  unfold Axis.pulseEnd
  dsimp only
  rw [hb]
  apply run_ok
  · unfold Axis.afterPulse
    cases hea : pl.endAction with
    | none =>
      have hns : a.state ≠ .stopping := by rw [hst, hea]; simp [EndAction.runsIn]
      dsimp only
      split
      · exact coreb _ (fun x => absurd x hns)
      · split
        · exact core .held _ (.inr rfl) (fun x => absurd x hns)
        · exact coreb _ (fun x => absurd x hns)
    | skip =>
      have hns : a.state ≠ .stopping := by rw [hst, hea]; simp [EndAction.runsIn]
      dsimp only
      split <;> exact coreb _ (fun x => absurd x hns)
    | finish why =>
      cases why <;> dsimp only
      · split <;> exact coreb _ (fun _ => by simp [Task.ends, Task.settles])
      · split <;> exact coreb _ (fun _ => by simp [Task.ends, Task.settles])
      · exact coreb _ (fun _ => by simp [Task.ends, Task.settles])
  · apply tasksEnd_tail
    · unfold Axis.afterPulse
      cases hea : pl.endAction with
      | none => dsimp only; split; rfl; split <;> rfl
      | skip => dsimp only; split <;> rfl
      | finish why =>
        cases why <;> dsimp only
        · split <;> rfl
        · split <;> rfl
        · rfl
    · cases w <;> rfl

/-- A period expiry brings a sound axis (R59, R66). -/
theorem periodEnd_ok (table : Eight Entry) {a : Axis} (h : a.Core []) : (Axis.periodEnd table a).1.Ok := by
  unfold Axis.periodEnd
  split
  · rename_i act hdm hsl
    have hd : act.seg.isDwell = true := by
      obtain ⟨act', x, y⟩ := h.dwellMark hdm; rw [hsl] at x; cases x; exact y
    have hdir := h.dwell act hsl hd
    have hp : a.pulse = none := by
      cases hpu : a.pulse with
      | none => rfl
      | some pl => obtain ⟨-, act', x, y, -⟩ := h.pulse pl hpu; rw [hsl] at x; cases x; rw [hdir] at y; simp at y
    have hf := h.full; have hs := h.stopping
    simp [hp] at hf hs
    have core : ∀ ts, ({ a with
        periodExpired := true
        periodLeft := 0
        dwellMark := false
        slot := some { act with remaining := act.remaining - 1 } } : Axis).Core ts := by
      intro ts
      refine ⟨h.busy, ?_, ?_, ?_, ?_, h.fault, h.off, h.queue, h.noPark, ?_, ?_, h.config, h.known, ?_, ?_⟩
      · intro x; have := h.empty x; rw [hsl] at this; simp at this
      · simp
      · simp [hp]
      · intro x; exact absurd x hs
      · simp
      · intro x y z; cases y; exact hdir
      · intro x y _ _; cases y; simp [Axis.pathWithin, hdir]
      · intro x y; cases y; have := h.count act hsl; dsimp only; omega
    dsimp only
    split
    · exact run_ok _ _ _ (core _) rfl
    · exact run_ok _ _ _ (core _) rfl
  · exact run_ok _ _ _ ((h.any _).congr rfl rfl rfl rfl rfl rfl rfl rfl rfl rfl rfl) rfl

/-- An overcurrent brings a sound axis (R81, R82). -/
theorem overcurrent_ok (table : Eight Entry) {a : Axis} {pl : Pulse} (h : a.Core []) (hp : a.pulse = some pl) :
    (Axis.overcurrent table a pl).1.Ok := by
  obtain ⟨hst, act, hsl, hdir, hrem⟩ := h.pulse pl hp
  have core : ∀ ts, ts.any Task.ends = true → ts.any Task.settles = true →
      ({ a with pulse := none, tripped := false, positionValid := false } : Axis).Core ts := by
    intro ts h1 h2
    refine ⟨h.busy, h.empty, fun _ => .inr h2, by simp, fun _ => .inr ⟨h2, .inr h1⟩, h.fault, h.off, h.queue,
        h.noPark, h.dwellMark, h.dwell, h.config, by simp, by simp, h.count⟩
  unfold Axis.overcurrent
  dsimp only
  split
  · exact run_ok _ _ _ (core _ rfl rfl) rfl
  · split
    · exact run_ok _ _ _ (core _ rfl rfl) rfl
    · exact run_ok _ _ _ (core _ rfl rfl) rfl

end Sys2Proof.Machine
end

