-- ==== Sys2Proof/Laws/Bytes.lean ====
section
/-! SUPPORT. Bytes, two-byte numbers, masks and the check byte (9 R163, 10 R176, R178). -/

namespace Sys2Proof

/-! ## Two-byte numbers (R176) -/

/-- A number is its first byte times 256 plus its second. -/
theorem word16_toNat (hi lo : Byte) : (word16 hi lo).toNat = hi.toNat * 256 + lo.toNat := by
  have := lo.isLt
  simp only [word16, BitVec.toNat_append]
  rw [← Nat.shiftLeft_add_eq_or_of_lt (by omega), Nat.shiftLeft_eq]

/-- A number is made of its two bytes. -/
@[simp] theorem word16_bytes (w : Word16) : word16 (highByte w) (lowByte w) = w := by
  apply BitVec.eq_of_toNat_eq
  have := w.isLt
  rw [word16_toNat]
  simp only [highByte, lowByte, BitVec.extractLsb'_toNat, Nat.shiftRight_eq_div_pow]
  omega

@[simp] theorem highByte_word16 (hi lo : Byte) : highByte (word16 hi lo) = hi := by
  apply BitVec.eq_of_toNat_eq
  have := hi.isLt; have := lo.isLt
  simp only [highByte, BitVec.extractLsb'_toNat, word16_toNat, Nat.shiftRight_eq_div_pow]
  omega

@[simp] theorem lowByte_word16 (hi lo : Byte) : lowByte (word16 hi lo) = lo := by
  apply BitVec.eq_of_toNat_eq
  have := hi.isLt; have := lo.isLt
  simp only [lowByte, BitVec.extractLsb'_toNat, word16_toNat, Nat.shiftRight_eq_div_pow]
  omega

/-! ## The check byte (R163) -/

/-- One shift of the check register can be undone: the polynomial has its lowest bit set. -/
theorem crcShift_undo (x : Byte) :
    (if (crcShift x).getLsbD 0 then ((crcShift x ^^^ 0x07) >>> 1) ||| 0x80 else crcShift x >>> 1) = x := by
  unfold crcShift
  decide +revert

theorem crcShift_inj {x y : Byte} (h : crcShift x = crcShift y) : x = y := by
  rw [← crcShift_undo x, h, crcShift_undo y]

/-- A byte taken into the check register gives different registers from different sums. -/
theorem crcByte_inj {r s b c : Byte} (h : crcByte r b = crcByte s c) : r ^^^ b = s ^^^ c := by
  unfold crcByte at h
  iterate 8 replace h := crcShift_inj h
  exact h

/-! ## Axis numbers and masks (R176) -/

namespace Machine

theorem axisOf_of_val {b : Byte} {n : AxisId} (h : b.toNat = n.val) : axisOf b = some n := by
  unfold axisOf; simp [h]

theorem axisOf_of_ge {b : Byte} (h : 8 ≤ b.toNat) : axisOf b = none := by
  unfold axisOf; simp; omega

/-- Bit `n` of a mask says whether axis `n` is in it. -/
theorem maskOf_getLsbD (f : AxisId → Bool) (n : AxisId) : (maskOf f).getLsbD n.val = f n := by
  have key : ∀ b0 b1 b2 b3 b4 b5 b6 b7 : Bool, ∀ n : Fin 8,
      (maskOf (![b0, b1, b2, b3, b4, b5, b6, b7])).getLsbD n.val = ![b0, b1, b2, b3, b4, b5, b6, b7] n := by
    decide
  have e : f = ![f 0, f 1, f 2, f 3, f 4, f 5, f 6, f 7] := by
    funext m; fin_cases m <;> rfl
  rw [e]
  exact key ..

theorem oneMask_getLsbD (n m : AxisId) : (oneMask n).getLsbD m.val = (m == n) :=
  maskOf_getLsbD _ m

/-- Two masks with the same axes are equal. -/
theorem mask_ext {x y : Byte} (h : ∀ n : AxisId, x.getLsbD n.val = y.getLsbD n.val) : x = y :=
  BitVec.eq_of_getLsbD_eq fun i hi => h ⟨i, hi⟩

end Machine

end Sys2Proof
end

