-- ==== Sys2Proof/Laws/Chain.lean ====
section
/-! SUPPORT. What going on to the waiting segments and placing a PARK segment give, each said once over a whole event: the chain
of R48, the wake of R12, the park of R109. -/

namespace Sys2Proof.Machine

/-! ## The table is read for its contents alone -/

/-- Two tables hold the same contents, whatever their counts. -/
def SameContents (t u : Eight Entry) : Prop := ∀ k, (t.get k).state = (u.get k).state

theorem Axis.beginStep_contents {t u : Eight Entry} (h : SameContents t u) (a : Axis) :
    Axis.beginStep t a = Axis.beginStep u a := by
  have : ∀ g : Segment, g.shapeIn t = g.shapeIn u := by
    intro g
    unfold Segment.shapeIn
    cases g.profile with
    | none => rfl
    | some k => simp only [h k]
  simp only [Axis.beginStep, this]

theorem Axis.goesOn_contents {t u : Eight Entry} (h : SameContents t u) (q : List Segment) :
    ∀ a : Axis, a.goesOn t q = a.goesOn u q := by
  induction q with
  | nil => exact fun _ => rfl
  | cons g rest ih =>
    intro a
    simp only [Axis.goesOn, ih, Axis.activated, Axis.beginStep_contents h]

theorem Axis.wakes_contents {t u : Eight Entry} (h : SameContents t u) (a : Axis) : a.wakes t = a.wakes u := by
  simp only [Axis.wakes, Axis.goesOn_contents h]

theorem Axis.parks_contents {t u : Eight Entry} (h : SameContents t u) (a : Axis) : a.parks t = a.parks u := by
  simp only [Axis.parks, Axis.goesOn_contents h, Axis.beginStep_contents h]

theorem Axis.expiresIf_contents {t u : Eight Entry} (h : SameContents t u) (p : Prop) [Decidable p] (a : Axis) :
    a.expiresIf t p = a.expiresIf u p := by
  simp only [Axis.expiresIf, Axis.beginStep_contents h]

theorem sameContents_withGivenBack (s : State) (q : List Segment) : SameContents (s.withGivenBack q).table s.table := by
  intro k
  simp [State.withGivenBack, State.table, givenBack]

theorem sameContents_takeRef (s : State) (k : ProfileId) : SameContents (s.takeRef k).table s.table := by
  intro j
  simp only [State.takeRef, State.table_setTable]
  by_cases h : j = k
  · subst h; simp [Entry.raise]
  · simp [h]

theorem State.withGivenBack_cons (s : State) (g : Segment) (q : List Segment) :
    s.withGivenBack (g :: q) = (s.withGivenBack [g]).withGivenBack q := by
  rw [← State.withGivenBack_append]; rfl

/-! ## A step begins once -/

theorem Axis.beginStep_begun (table : Eight Entry) (a : Axis) :
    Axis.beginStep table (Axis.beginStep table a) = Axis.beginStep table a := by
  have fixed : ∀ b : Axis, b.periodExpired = false → Axis.beginStep table b = b := by
    intro b hb
    unfold Axis.beginStep
    split <;> simp [hb]
  obtain ⟨b, hb⟩ : ∃ b, b = Axis.beginStep table a := ⟨_, rfl⟩
  have key : b = a ∨ b.periodExpired = false := by
    rw [hb]
    unfold Axis.beginStep
    repeat' split
    all_goals simp [Axis.startTimer]
  rw [← hb]
  rcases key with h | h
  · rw [h, ← hb, h]
  · exact fixed b h

theorem Axis.beginStep_of_empty (table : Eight Entry) {a : Axis} (h : a.slot = none) : Axis.beginStep table a = a := by
  simp [Axis.beginStep, h]

theorem Axis.goesOn_begun (table : Eight Entry) (q : List Segment) :
    ∀ a : Axis, a.slot = none → Axis.beginStep table (a.goesOn table q).1 = (a.goesOn table q).1 := by
  induction q with
  | nil => exact fun a h => Axis.beginStep_of_empty table h
  | cons g rest ih =>
    intro a h
    unfold Axis.goesOn
    split
    · exact Axis.beginStep_of_empty table h
    · split
      · exact ih _ h
      · exact Axis.beginStep_begun _ _

theorem Axis.wakes_begun (table : Eight Entry) (a : Axis) (h : a.slot = none) :
    Axis.beginStep table (a.wakes table).1 = (a.wakes table).1 := by
  unfold Axis.wakes
  split
  · exact Axis.beginStep_of_empty table h
  · exact Axis.goesOn_begun _ _ _ h

theorem Axis.parks_begun (table : Eight Entry) (a : Axis) (h : a.slot = none) :
    Axis.beginStep table (a.parks table).1 = (a.parks table).1 := by
  simp only [Axis.parks]
  split
  · exact Axis.goesOn_begun _ _ _ h
  · exact Axis.beginStep_begun _ _

/-! ## The chain of heads -/

section

variable (s : State) (n : AxisId) (ts : List Task)

/-- Going on to the waiting segments, once the store has taken the gives of those that leave (R12, R44, R48, R50). -/
theorem execAll_next (q : List Segment) :
    ∀ (s : State) (a : Axis), a.waiting = q → a.busy = .none → a.slot = none → a.state ≠ .off → a.state ≠ .faulted →
      execAll (gives n (a.goesOn s.table q).2) (s.runAxis n a (.next :: ts)) =
        .next ((s.withGivenBack (a.goesOn s.table q).2).runAxis n (a.goesOn s.table q).1 ts) := by
  induction q with
  | nil =>
    intro s a hw hb hs h1 h2
    rw [State.runAxis_made (b := (a.goesOn s.table []).1)]
    · simp [Axis.goesOn, State.withGivenBack_nil]
    · simp only [Axis.doTask, hw, Axis.goesOn, Axis.idleWith, hs]
      simp [Axis.post, ← hw]
  | cons g rest ih =>
    intro s a hw hb hs h1 h2
    have hn : Axis.doTask s.table a .next = a.activateHead s.table := by simp [Axis.doTask, hw]
    cases hr : a.resolve g.job with
    | none =>
      obtain ⟨k, hk⟩ := Axis.profile_of_resolve_none hr
      have hh' := Axis.activateHead_none s.table a g rest hw hs h1 h2 hr
      have e := execAll_gives s n a g ts _ .next _ _ k (hn.trans hh') (by simp [Axis.leaver]) hk
      simp only [Axis.goesOn, hr]
      rw [gives_cons_some _ _ hk, gives_nil, e]
      simp only [Axis.left, List.cons_append, List.nil_append, Axis.clearSlot]
      rw [State.runAxis_made _ _ _ _ (by simp only [Axis.doTask, Axis.faultNow]; rfl)]
      congr 2
      cases a; subst hb hs
      simp_all [Axis.post, Axis.lowPost]
    | some r =>
      by_cases hc : r.count = 0 ∧ g.isDwell = false
      · obtain ⟨hc, hd⟩ := hc
        obtain ⟨k, hk⟩ : ∃ k, g.profile = some k := by
          cases hp : g.profile with
          | none => rw [(g.isDwell_iff).2 hp] at hd; cases hd
          | some k => exact ⟨k, rfl⟩
        have hh' := Axis.activateHead_zero s.table a g rest r k hw hs h1 h2 hr hc hk
        obtain ⟨b, hbd⟩ : ∃ b : Axis, b = { a with
          waiting := rest, truncReported := false, dwellMark := false
          position := if g.isHome then a.config.homePosition else a.position
          positionValid := a.positionValid || g.isHome
          posts := a.posts ++ a.lowPost rest ++ (if r.clipped then [⟨.limit, 0⟩] else []) ++ g.donePost } := ⟨_, rfl⟩
        have e : execAll [.give n] (s.runAxis n a (.next :: ts)) =
            .next ((s.withGivenBack [g]).runAxis n b (.next :: ts)) := by
          rw [execAll_gives s n a g ts _ .next _ _ k (hn.trans hh') (by simp [Axis.leaver]) hk, hbd]
          simp only [Axis.left, List.cons_append, List.nil_append, Axis.doneAndClear, Axis.clearSlot, Axis.lowPost,
            Segment.donePost]
          congr 2
          cases a; subst hb hs
          cases g.notify <;> simp [Axis.post]
        have el : b.goesOn s.table rest = b.goesOn (s.withGivenBack [g]).table rest :=
          Axis.goesOn_contents (fun j => ((sameContents_withGivenBack s [g]) j).symm) rest b
        have ih' := ih (s.withGivenBack [g]) b (by rw [hbd]) (by rw [hbd]; exact hb) (by rw [hbd]; exact hs)
          (by rw [hbd]; exact h1) (by rw [hbd]; exact h2)
        simp only [Axis.goesOn, hr, hc, hd, and_self, if_true]
        rw [← hbd, gives_cons_some _ _ hk, show ∀ l : List Instr, (.give n : Instr) :: l = [.give n] ++ l from fun _ => rfl,
          execAll_append e, el, ih',
          State.withGivenBack_cons s g (Axis.goesOn (s.withGivenBack [g]).table rest b).2]
      · have hc' : r.count ≠ 0 ∨ g.isDwell = true := by
          by_cases h0 : r.count = 0
          · right; cases hd : g.isDwell with
            | false => exact absurd ⟨h0, hd⟩ hc
            | true => rfl
          · exact .inl h0
        simp only [Axis.goesOn, hr, if_neg hc]
        rw [gives_nil, State.withGivenBack_nil, State.runAxis_made s n a ts
          (hn.trans (Axis.activateHead_step s.table a g rest r hw hs h1 h2 hr hc'))]
        rfl

/-- The wake of an axis that has entered IDLE, once the store has taken the gives of the segments that leave (R12). -/
theorem execAll_wake (a : Axis) (hb : a.busy = .none) (hs : a.slot = none) (h1 : a.state = .idle) :
    execAll (gives n (a.wakes s.table).2) (s.runAxis n a (.wake :: ts)) =
      .next ((s.withGivenBack (a.wakes s.table).2).runAxis n (a.wakes s.table).1 ts) := by
  cases hw : a.waiting with
  | nil =>
    simp only [Axis.wakes, hw, if_true, gives_nil, State.withGivenBack_nil]
    rw [State.runAxis_made s n a ts (b := a)]
    · rfl
    · simp [Axis.doTask, h1, Axis.activateHead, hw]
  | cons g rest =>
    have e : s.runAxis n a (.wake :: ts) = s.runAxis n a (.next :: ts) := by
      have : Axis.doTask s.table a .wake = Axis.doTask s.table a .next := by simp [Axis.doTask, h1, hw]
      simp only [State.runAxis, Axis.run, this]
    have hne : ¬ a.waiting = [] := by simp [hw]
    simp only [Axis.wakes, if_neg hne, e]
    exact execAll_next n ts a.waiting s a rfl hb hs (by simp [h1]) (by simp [h1])

end

/-! ## The placement of a PARK segment -/

/-- A park take of the store: the count rises, and the PARK segment activates (R90, R109). -/
theorem exec_parkTake (s : State) (n : AxisId) (a : Axis) (ts : List Task) (hb : a.busy = .none) (hs : a.slot = none) :
    exec (.parkTake n) (s.setAxis n { a with busy := .parkTake ts }) =
      .next ((s.takeRef a.config.parkProfile).finish n
        ((Axis.activate (s.takeRef a.config.parkProfile).table a (parkSegment a.config)).andThen
          (s.takeRef a.config.parkProfile).table ts)) := by
  have : ∀ x k, (s.setAxis n x).takeRef k = (s.takeRef k).setAxis n x := fun _ _ => rfl
  cases a
  dsimp only at hs hb
  subst hs hb
  simp only [exec, execParkTake, State.axis_setAxis_same]
  simp only [this, State.finish_setAxis, State.setAxis_table]

/-- Placing a PARK segment, once the store has taken its reference, and given it back where the segment has left (R109). -/
theorem execAll_park (s : State) (n : AxisId) (a : Axis) (ts : List Task) (hb : a.busy = .none) (hs : a.slot = none)
    (h1 : a.state = .idle) (hv : a.positionValid = true) :
    execAll (.parkTake n :: gives n (a.parks s.table).2) (s.runAxis n a (.park :: ts)) =
      .next (((s.takeRef a.config.parkProfile).withGivenBack (a.parks s.table).2).runAxis n (a.parks s.table).1 ts) := by
  have hpk : parkSegment a.config = a.config.park := rfl
  rw [State.runAxis_takes s n a ts (b := a) (by simp [Axis.doTask, hv, h1, hs])]
  obtain ⟨t, ht⟩ : ∃ t, t = s.takeRef a.config.parkProfile := ⟨_, rfl⟩
  have e : exec (.parkTake n) (s.setAxis n { a with busy := .parkTake ts }) =
      .next (t.finish n ((Axis.activate t.table a a.config.park).andThen t.table ts)) := by
    rw [exec_parkTake s n a ts hb hs, hpk, ← ht]
  have hr : a.resolve a.config.park.job = some ⟨toward a.position a.config.parkPosition,
      distance a.config.parkPosition a.position, false⟩ := by
    simp [AxisConfig.park, Axis.resolve, hv]
  have hd : a.config.park.isDwell = false := rfl
  have hho : a.config.park.isHome = false := rfl
  rw [Axis.parks_contents (fun k => ((sameContents_takeRef s a.config.parkProfile) k).symm), ← ht]
  by_cases h0 : ((a.config.parkPosition.toNat : Int) - (a.position.toNat : Int)).natAbs = 0
  · have h0' : distance a.config.parkPosition a.position = 0 := h0
    simp only [Axis.parks, h0, if_true]
    rw [gives_cons_some (k := a.config.parkProfile) (h := rfl), execAll_cons e,
      State.withGivenBack_cons_some (k := a.config.parkProfile) (h := rfl)]
    have e2 : t.finish n ((Axis.activate t.table a a.config.park).andThen t.table ts) =
        t.setAxis n { ({ a with
          slot := some ⟨a.config.park, toward a.position a.config.parkPosition, 0, 0, false⟩
          truncReported := false } : Axis) with busy := .give (.active true) (.next :: ts) } := by
      simp only [Axis.activate, hr, h0', hd, and_self, if_true, Axis.completeActive, Axis.placed, hho]
      simp [AxisConfig.park, Segment.profile, TaskResult.andThen, Axis.homeReached, Segment.isHome, State.finish]
    rw [e2, execAll_cons (exec_give_setAxis t n _ (what := .active true) (g := a.config.park)
      (k := a.config.parkProfile) rfl rfl)]
    obtain ⟨c, hc⟩ : ∃ c : Axis, c =
        { a with truncReported := false, dwellMark := false, posts := a.posts ++ [⟨.done, 0xFF⟩] } := ⟨_, rfl⟩
    have e3 : (({ a with
          slot := some ⟨a.config.park, toward a.position a.config.parkPosition, 0, 0, false⟩
          truncReported := false, busy := .none } : Axis).left (.active true)) = c := by
      subst hc
      simp only [Axis.left, Axis.doneAndClear, AxisConfig.park]
      cases a; subst hb hs h1
      simp [Axis.clearSlot, Axis.post]
    have e4 : Axis.goesOn t.table a.waiting c = Axis.goesOn (t.giveRef a.config.parkProfile).table a.waiting c :=
      Axis.goesOn_contents (fun k => by
        simp only [State.giveRef, State.table_setTable]
        by_cases h : k = a.config.parkProfile
        · subst h; simp [Entry.lower]
        · simp [h]) _ _
    rw [e3, ← hc, e4]
    exact execAll_next n ts a.waiting _ c (by rw [hc]) (by rw [hc]; exact hb) (by rw [hc]; exact hs)
      (by rw [hc]; simp [h1]) (by rw [hc]; simp [h1])
  · have hc : ¬ (distance a.config.parkPosition a.position = 0 ∧ a.config.park.isDwell = false) := fun h => h0 h.1
    simp only [Axis.parks, if_neg h0]
    rw [gives_nil, State.withGivenBack_nil, execAll_cons e, execAll_nil]
    simp only [Axis.activate, hr, if_neg hc, TaskResult.andThen, List.nil_append]
    have hto : toward a.position a.config.parkPosition =
        if a.position.toNat < a.config.parkPosition.toNat then some .forward else some .reverse := by
      unfold toward
      split
      · rfl
      · rw [if_pos (by omega)]
    simp [State.runAxis, Axis.placed, Axis.enteredState, Axis.holdCause, AxisConfig.park, Segment.isHome, hto, distance]

/-! ## What follows a pulse, up to the end of its event -/

section

variable (s : State) (n : AxisId) (a : Axis) (together : Prop) [Decidable together]

/-- The last task of a pulse end: the expiry that falls at it, where one does, or the step that may begin (R58, R64). -/
def lastTask : Task := if decide together then .expire else .begin

theorem State.runAxis_lastTask (h : Axis.beginStep s.table a = a) :
    s.runAxis n a [lastTask together] = s.setAxis n (a.expiresIf s.table together) := by
  by_cases ht : together
  · rw [State.runAxis_made (b := a.expiresIf s.table together)]
    · rfl
    · simp [Axis.doTask, Axis.expiresIf, ht, lastTask]
  · rw [State.runAxis_made (b := a)]
    · simp [Axis.expiresIf, ht]
    · simp [Axis.doTask, h, ht, lastTask]

theorem State.setAxis_expiresIf_givenBack (q : List Segment) (h : Axis.beginStep s.table a = a) :
    (s.withGivenBack q).runAxis n a [lastTask together] =
      (s.withGivenBack q).setAxis n (a.expiresIf s.table together) := by
  rw [State.runAxis_lastTask, Axis.expiresIf_contents (sameContents_withGivenBack s q)]
  rw [Axis.beginStep_contents (sameContents_withGivenBack s q), h]

theorem execAll_next_last (hb : a.busy = .none) (hs : a.slot = none) (h1 : a.state ≠ .off) (h2 : a.state ≠ .faulted) :
    execAll (gives n (a.goesOn s.table a.waiting).2) (s.runAxis n a [.next, lastTask together]) =
      .next ((s.withGivenBack (a.goesOn s.table a.waiting).2).setAxis n
        ((a.goesOn s.table a.waiting).1.expiresIf s.table together)) := by
  rw [execAll_next n _ a.waiting s a rfl hb hs h1 h2,
    State.setAxis_expiresIf_givenBack _ _ _ _ _ (Axis.goesOn_begun _ _ _ hs)]

theorem execAll_wake_last (hb : a.busy = .none) (hs : a.slot = none) (h1 : a.state = .idle) :
    execAll (gives n (a.wakes s.table).2) (s.runAxis n a [.wake, lastTask together]) =
      .next ((s.withGivenBack (a.wakes s.table).2).setAxis n ((a.wakes s.table).1.expiresIf s.table together)) := by
  rw [execAll_wake s n _ a hb hs h1, State.setAxis_expiresIf_givenBack _ _ _ _ _ (Axis.wakes_begun _ _ hs)]

theorem execAll_park_last (hb : a.busy = .none) (hs : a.slot = none) (h1 : a.state = .idle)
    (hv : a.positionValid = true) :
    execAll (.parkTake n :: gives n (a.parks s.table).2) (s.runAxis n a [.park, lastTask together]) =
      .next (((s.takeRef a.config.parkProfile).withGivenBack (a.parks s.table).2).setAxis n
        ((a.parks s.table).1.expiresIf s.table together)) := by
  have hc := sameContents_takeRef s a.config.parkProfile
  rw [execAll_park s n a _ hb hs h1 hv, State.setAxis_expiresIf_givenBack, Axis.expiresIf_contents hc]
  rw [Axis.beginStep_contents hc, Axis.parks_begun _ _ hs]

/-- A pulse end as the tasks that it makes on the axis whose step has counted (R63, R64, R79). -/
theorem exec_pulseEnd_runAxis {s t : State} {n : AxisId} {a x : Axis} {act : Active} {pl : Pulse} (ha : s.axis n = a)
    (hf : a.free = true) (htr : a.tripped = false) (hp : a.pulse = some pl) (hs : a.slot = some act)
    (hpe : a.periodExpired = false)
    (htog : together ↔ pl.cutAt = period act.seg.rate ∧ a.periodLeft ≤ pl.cutAt - pl.elapsed)
    (ht : t = s.advance (pl.cutAt - pl.elapsed)) (hx : x = (t.axis n).stepCounts pl) :
    exec (.pulseEnd n) s = .next (t.runAxis n (x.afterPulse pl.endAction).1
      ((x.afterPulse pl.endAction).2 ++ [lastTask together])) := by
  have : decide (pl.cutAt = period act.seg.rate ∧ a.periodLeft ≤ pl.cutAt - pl.elapsed) = decide together := by
    simp [htog]
  rw [exec_pulseEnd ha hf htr hp hs hpe, ← ht, this]
  have h2 : s.table = t.table := by rw [ht]; rfl
  simp only [State.runAxis, Axis.pulseEnd, hx, h2, lastTask]

/-- The axis whose step has counted at the end of its pulse, as one record (R63). -/
theorem Axis.stepCounts_advance {s t : State} {n : AxisId} {a : Axis} {act : Active} {pl : Pulse} (ha : s.axis n = a)
    (htr : a.tripped = false) (hp : a.pulse = some pl) (hs : a.slot = some act)
    (ht : t = s.advance (pl.cutAt - pl.elapsed)) :
    (t.axis n).stepCounts pl = { a with
      periodLeft := a.periodLeft - (pl.cutAt - pl.elapsed)
      pulse := none
      slot := some { act with remaining := act.remaining - 1 }
      position := a.stepped pl.direction act.seg
      posts := a.posts ++ if pl.truncated = true ∧ a.truncReported = false then [⟨.trunc, 0⟩] else []
      truncReported := a.truncReported || pl.truncated } ∧
    t.axis n = { a with
      periodLeft := a.periodLeft - (pl.cutAt - pl.elapsed), pulse := some (pl.advance (pl.cutAt - pl.elapsed)) } := by
  have h : t.axis n = { a with
      periodLeft := a.periodLeft - (pl.cutAt - pl.elapsed), pulse := some (pl.advance (pl.cutAt - pl.elapsed)) } := by
    rw [ht, State.axis_advance, ha, Axis.advance_of_not_tripped htr, hp]; rfl
  refine ⟨?_, h⟩
  rw [Axis.stepCounts_eq pl (act := act) (by rw [h]; exact hs), h]
  rfl

end

/-- A report of quiet in the middle of an event goes out before the tasks behind it. -/
theorem State.runAxis_quiet (s : State) (n : AxisId) (a : Axis) (ts : List Task) :
    s.runAxis n a (.send .quiet :: ts) =
      ({ s with start := { s.start with quietSent := s.start.quietSent.set n true } } : State).runAxis n a ts := rfl

theorem gives_cons (n : AxisId) (g : Segment) (q : List Segment) : gives n (g :: q) = gives n [g] ++ gives n q :=
  gives_append n [g] q

end Sys2Proof.Machine
end

