-- ==== Sys2Proof/Laws/Frames.lean ====
section
/-! SUPPORT. The edges of SCK in a frame: the bits of a byte, and what the sixteen edges of a whole byte do (9 R158). -/

namespace Sys2Proof

/-! ## The bits of a byte (R158) -/

/-- Eight bits sampled in order make the byte whose most significant bit was sampled first. -/
theorem byteOfBits_getLsbD (a b c d e f g h : Bool) {i : Nat} (hi : i < 8) :
    (byteOfBits [a, b, c, d, e, f, g, h]).getLsbD (7 - i) = [a, b, c, d, e, f, g, h].getD i false := by
  have : i = 0 ∨ i = 1 ∨ i = 2 ∨ i = 3 ∨ i = 4 ∨ i = 5 ∨ i = 6 ∨ i = 7 := by omega
  have z : ∀ m : Bool, (if m = true then 1#8 else 0#8)[0] = m := by intro m; cases m <;> simp
  have s : ∀ m : Bool, (if m = true then 1#8 else 0#8)[1] = false ∧ (if m = true then 1#8 else 0#8)[2] = false ∧
      (if m = true then 1#8 else 0#8)[3] = false ∧ (if m = true then 1#8 else 0#8)[4] = false ∧
      (if m = true then 1#8 else 0#8)[5] = false ∧ (if m = true then 1#8 else 0#8)[6] = false ∧
      (if m = true then 1#8 else 0#8)[7] = false := by intro m; cases m <;> simp
  rcases this with rfl | rfl | rfl | rfl | rfl | rfl | rfl | rfl <;> simp [byteOfBits, z, s]

/-- Eight bits sampled in order make the byte that has them, the most significant first. -/
theorem byteOfBits_eq {bits : List Bool} {b : Byte} (hl : bits.length = 8)
    (h : ∀ i, i < 8 → b.getLsbD (7 - i) = bits.getD i false) : byteOfBits bits = b := by
  match bits, hl with
  | [x0, x1, x2, x3, x4, x5, x6, x7], _ =>
    apply BitVec.eq_of_getLsbD_eq
    intro i hi
    have e : i = 7 - (7 - i) := by omega
    rw [e, byteOfBits_getLsbD _ _ _ _ _ _ _ _ (by omega), h _ (by omega)]

/-- A byte is made of its bits. -/
theorem byteOfBits_bits (b : Byte) :
    byteOfBits [b.getMsbD 0, b.getMsbD 1, b.getMsbD 2, b.getMsbD 3, b.getMsbD 4, b.getMsbD 5, b.getMsbD 6, b.getMsbD 7] = b := by
  apply byteOfBits_eq rfl
  intro i hi
  have : i = 0 ∨ i = 1 ∨ i = 2 ∨ i = 3 ∨ i = 4 ∨ i = 5 ∨ i = 6 ∨ i = 7 := by omega
  rcases this with rfl | rfl | rfl | rfl | rfl | rfl | rfl | rfl <;> simp [BitVec.getMsbD]

namespace Machine

/-! ## The port unit at an edge -/

section

variable (u : PortUnit) (b : Byte) (m : Bool)

@[simp] theorem PortUnit.shiftOut_inHand : (u.shiftOut b).inHand = u.inHand := rfl
@[simp] theorem PortUnit.shiftOut_frame : (u.shiftOut b).frame = u.frame := rfl
@[simp] theorem PortUnit.shiftOut_inByte : (u.shiftOut b).inByte = true := rfl
@[simp] theorem PortUnit.shiftOut_sckLow : (u.shiftOut b).sckLow = true := rfl
@[simp] theorem PortUnit.shiftOut_bits : (u.shiftOut b).bits = [] := rfl
@[simp] theorem PortUnit.nextBit_inHand : u.nextBit.inHand = u.inHand := rfl
@[simp] theorem PortUnit.nextBit_frame : u.nextBit.frame = u.frame := rfl
@[simp] theorem PortUnit.nextBit_inByte : u.nextBit.inByte = u.inByte := rfl
@[simp] theorem PortUnit.nextBit_sckLow : u.nextBit.sckLow = true := rfl
@[simp] theorem PortUnit.nextBit_bits : u.nextBit.bits = u.bits := rfl
@[simp] theorem PortUnit.sample_inHand : (u.sample m).inHand = u.inHand := rfl
@[simp] theorem PortUnit.sample_frame : (u.sample m).frame = u.frame := rfl
@[simp] theorem PortUnit.sample_inByte : (u.sample m).inByte = u.inByte := rfl
@[simp] theorem PortUnit.sample_sckLow : (u.sample m).sckLow = false := rfl
@[simp] theorem PortUnit.sample_bits : (u.sample m).bits = u.bits ++ [m] := rfl

@[simp] theorem PortUnit.countError_inHand (e : FrameError) : (u.countError e).inHand = u.inHand := by
  unfold PortUnit.countError; split <;> rfl

@[simp] theorem PortUnit.beginByte_inHand : (u.beginByte b).inHand = u.inHand := by
  unfold PortUnit.beginByte
  split <;> (try split) <;> simp

/-- A byte that begins in a frame is in progress, with SCK low and no bit sampled. -/
theorem PortUnit.beginByte_began (h : u.frame ≠ .idle) :
    (u.beginByte b).frame ≠ .idle ∧ (u.beginByte b).inByte = true ∧ (u.beginByte b).sckLow = true ∧
      (u.beginByte b).bits = [] := by
  have hc : ∀ e, (u.countError e).frame = u.frame := by intro e; unfold PortUnit.countError; split <;> rfl
  unfold PortUnit.beginByte
  split <;> (try split) <;> simp_all

end

/-! ## The edges over a state -/

@[simp] theorem State.setPort_setPort (s : State) (p : Port) (u v : PortUnit) :
    (s.setPort p u).setPort p v = s.setPort p v := by
  unfold State.setPort; simp

/-- A port with no request of its own in hand is settled. -/
theorem State.settle_of_inHand {s : State} {p : Port} (h : (s.port p).inHand = none) : s.settle p = s := by
  unfold State.settle; rw [h]

section

variable (s : State) (p : Port) (u : PortUnit)

/-- The first falling edge of a byte. -/
theorem exec_falls_begin (hi : (s.port p).inHand = none) (hf : (s.port p).frame ≠ .idle)
    (hb : (s.port p).inByte = false) :
    exec (.frameByte p .falls) s = .next (s.setPort p ((s.port p).beginByte (s.statusByte p))) := by
  simp only [exec, execFrameByte, State.settle_of_inHand hi, State.sckFalls, hb]
  cases h : (s.port p).frame <;> simp_all

/-- A later falling edge of a byte. -/
theorem exec_falls_next (hi : u.inHand = none) (hf : u.frame ≠ .idle) (hb : u.inByte = true) (hs : u.sckLow = false) :
    exec (.frameByte p .falls) (s.setPort p u) = .next (s.setPort p u.nextBit) := by
  have hi' : ((s.setPort p u).port p).inHand = none := by simpa using hi
  simp only [exec, execFrameByte, State.settle_of_inHand hi', State.sckFalls, State.port_setPort_same, hb, hs]
  cases h : u.frame <;> simp_all

/-- A rising edge of a byte before the eighth. -/
theorem exec_rises_sample (m : Bool) (hi : u.inHand = none) (hf : u.frame ≠ .idle) (hb : u.inByte = true)
    (hs : u.sckLow = true) (hl : u.bits.length < 7) :
    exec (.frameByte p (.rises m)) (s.setPort p u) = .next (s.setPort p (u.sample m)) := by
  have hi' : ((s.setPort p u).port p).inHand = none := by simpa using hi
  simp only [exec, execFrameByte, State.settle_of_inHand hi', State.sckRises, State.port_setPort_same, hb, hs, hl]
  cases h : u.frame <;> simp_all

/-- The eighth rising edge of a byte. -/
theorem exec_rises_last (m : Bool) (hi : u.inHand = none) (hf : u.frame ≠ .idle) (hb : u.inByte = true)
    (hs : u.sckLow = true) (hl : u.bits.length = 7) :
    exec (.frameByte p (.rises m)) (s.setPort p u) =
      .next ((s.setPort p u.byteDone).completeByte p (byteOfBits (u.bits ++ [m]))) := by
  have hi' : ((s.setPort p u).port p).inHand = none := by simpa using hi
  simp only [exec, execFrameByte, State.settle_of_inHand hi', State.sckRises, State.port_setPort_same, hb, hs, hl]
  cases h : u.frame <;> simp_all

theorem byteCommands_cons (b : Byte) (bs : List Byte) : byteCommands p (b :: bs) = byteCommands p [b] ++ byteCommands p bs := by
  simp [byteCommands]

/-- The sixteen edges of a byte, in a frame between bytes with no request in hand: the byte begins, its bits go both ways,
the most significant first, and it completes. -/
theorem execAll_byte (b : Byte) (hi : (s.port p).inHand = none) (hf : (s.port p).frame ≠ .idle)
    (hb : (s.port p).inByte = false) (hu : u = (s.port p).beginByte (s.statusByte p)) :
    execAll (byteCommands p [b]) s =
      .next ((s.setPort p { u.byteDone with miso := .level (u.outByte.getMsbD 7) }).completeByte p b) := by
  obtain ⟨h1, h2, h3, h4⟩ := PortUnit.beginByte_began (s.port p) (s.statusByte p) hf
  have h5 : u.inHand = none := by rw [hu]; simpa using hi
  rw [← hu] at h1 h2 h3 h4
  have e : byteCommands p [b] =
      [.frameByte p .falls, .frameByte p (.rises (b.getMsbD 0)), .frameByte p .falls, .frameByte p (.rises (b.getMsbD 1)),
        .frameByte p .falls, .frameByte p (.rises (b.getMsbD 2)), .frameByte p .falls, .frameByte p (.rises (b.getMsbD 3)),
        .frameByte p .falls, .frameByte p (.rises (b.getMsbD 4)), .frameByte p .falls, .frameByte p (.rises (b.getMsbD 5)),
        .frameByte p .falls, .frameByte p (.rises (b.getMsbD 6)), .frameByte p .falls,
        .frameByte p (.rises (b.getMsbD 7))] := rfl
  rw [e, execAll_cons (exec_falls_begin s p hi hf hb), ← hu]
  iterate 7
    rw [execAll_cons (exec_rises_sample s p _ _ (by simpa using h5) (by simpa using h1) (by simpa using h2)
        (by simp [h3]) (by simp [h4])),
      execAll_cons (exec_falls_next s p _ (by simpa using h5) (by simpa using h1) (by simpa using h2) (by simp))]
  rw [execAll_cons (exec_rises_last s p _ _ (by simpa using h5) (by simpa using h1) (by simpa using h2) (by simp)
    (by simp [h4])), execAll_nil]
  simp only [PortUnit.nextBit_bits, PortUnit.sample_bits, h4, List.nil_append, List.cons_append]
  rw [byteOfBits_bits]
  simp only [PortUnit.byteDone, PortUnit.nextBit, PortUnit.sample, h4, List.nil_append, List.cons_append,
    List.length_cons, List.length_nil]

end

end Machine

end Sys2Proof
end

