-- ==== Sys2Proof/Laws/References.lean ====
section
/-! SUPPORT. What the tasks of an axis controller keep of the references that its axis makes (4 R89 to R91). -/

namespace Sys2Proof.Machine

/-- The segments an axis holds. -/
def Axis.segs (a : Axis) : List Segment := a.waiting ++ (a.slot.map Active.seg).toList

/-- The references that an axis makes are those of its configuration and of its segments (R89). -/
theorem axis_refs (k) (a : Axis) : a.refs k = a.config.refs k + queueRefs k a.segs := by
  unfold Axis.refs Axis.segs queueRefs slotRefs
  cases a.slot <;> simp [List.sum_append] <;> omega

/-- `b` makes the references that `a` makes, and holds no segment that `a` does not hold. -/
structure Axis.Kept (a b : Axis) : Prop where
  config : b.config = a.config
  refs : ∀ k, queueRefs k b.segs = queueRefs k a.segs
  segs : ∀ g, g ∈ b.segs → g ∈ a.segs

/-- An axis keeps its own references. -/
theorem Axis.Kept.refl (a : Axis) : a.Kept a := ⟨rfl, fun _ => rfl, fun _ h => h⟩

/-- Keeping references is transitive. -/
theorem Axis.Kept.trans {a b c : Axis} (h : a.Kept b) (g : b.Kept c) : a.Kept c :=
  ⟨g.config.trans h.config, fun k => (g.refs k).trans (h.refs k), fun x hx => h.segs x (g.segs x hx)⟩

/-- An axis with the same configuration, queue and active segment keeps its references. -/
theorem Axis.Kept.of {a b : Axis} (h1 : b.config = a.config) (h2 : b.waiting = a.waiting)
    (h3 : b.slot.map Active.seg = a.slot.map Active.seg) : a.Kept b := by
  refine ⟨h1, ?_, ?_⟩ <;> intro x <;> unfold Axis.segs <;> rw [h2, h3] <;> simp

/-- The axis of a task's result. -/
def TaskResult.ax : TaskResult → Axis
  | .made a _ => a
  | .gives a _ _ => a
  | .takes a => a

/-- Beginning a step keeps the references. -/
theorem beginStep_kept (table) (a : Axis) : a.Kept (Axis.beginStep table a) := by
  unfold Axis.beginStep
  split
  · split
    · split <;> exact Axis.Kept.of rfl rfl rfl
    · exact Axis.Kept.refl a
  · exact Axis.Kept.refl a

/-- A DWELL names no profile (R29). -/
theorem dwellProfile {g : Segment} : g.isDwell = true → g.profile = none := by
  unfold Segment.isDwell Segment.profile; cases g.job <;> simp

/-- A segment that names no profile makes no reference. -/
theorem refs_none {g : Segment} (h : g.profile = none) (k) : g.refs k = 0 := by simp [Segment.refs, h]

/-- The references of two queues add up. -/
theorem queueRefs_append (k) (l m : List Segment) : queueRefs k (l ++ m) = queueRefs k l + queueRefs k m := by
  simp [queueRefs]

/-- An empty queue makes no reference. -/
@[simp] theorem queueRefs_nil (k) : queueRefs k [] = 0 := rfl

/-- DWELLs that leave take no reference. -/
theorem queueRefs_dropWhile (k) (l : List Segment) : queueRefs k (l.dropWhile Segment.isDwell) = queueRefs k l := by
  induction l with
  | nil => rfl
  | cons g l ih =>
    rw [List.dropWhile_cons]
    split
    · rename_i h; rw [ih, queueRefs_cons, refs_none (dwellProfile h)]; omega
    · rfl

/-- Where no tagged segment names a profile, removing the tagged ones keeps the references (R52). -/
theorem queueRefs_filter (k) (tag : Byte) (l : List Segment) (h : l.any (Segment.taggedGive tag) = false) :
    queueRefs k (l.filter fun g => g.tag != tag) = queueRefs k l := by
  induction l with
  | nil => rfl
  | cons g l ih =>
    simp only [List.any_cons, Bool.or_eq_false_iff] at h
    rw [List.filter_cons]
    split
    · rw [queueRefs_cons, queueRefs_cons, ih h.2]
    · rename_i ht
      have h1 := h.1
      simp [Segment.taggedGive] at h1 ht
      rw [ih h.2, queueRefs_cons, refs_none (h1 ht)]; omega

/-- A queue with the same references. -/
theorem setWaiting_kept (a : Axis) (q : List Segment) (h1 : ∀ k, queueRefs k q = queueRefs k a.waiting) (h2 : ∀ g,
    g ∈ q → g ∈ a.waiting) :
    a.Kept { a with waiting := q } := by
  refine ⟨rfl, ?_, ?_⟩
  · intro k; unfold Axis.segs; rw [queueRefs_append, queueRefs_append, h1]
  · intro g hg; unfold Axis.segs at hg ⊢
    rcases List.mem_append.mp hg with x | x
    · exact List.mem_append.mpr (.inl (h2 g x))
    · exact List.mem_append.mpr (.inr x)

/-- Emptying a slot whose segment names no profile keeps the references. -/
theorem clearSlot_kept (a : Axis) (h : ∀ act, a.slot = some act → act.seg.profile = none) : a.Kept a.clearSlot := by
  refine ⟨rfl, ?_, ?_⟩
  · intro k; unfold Axis.segs Axis.clearSlot; rw [queueRefs_append, queueRefs_append]
    cases hs : a.slot with
    | none => rfl
    | some act => simp [queueRefs_cons, refs_none (h act hs)]
  · intro g hg; unfold Axis.segs Axis.clearSlot at hg; simp at hg
    exact List.mem_append.mpr (.inl hg)

/-- The first step of a completion keeps the references. -/
theorem homeReached_kept (a : Axis) : a.Kept a.homeReached := by
  unfold Axis.homeReached; split
  · split
    · exact Axis.Kept.of rfl rfl rfl
    · exact Axis.Kept.refl a
  · exact Axis.Kept.refl a

/-- The last steps of the completion of a DWELL keep the references. -/
theorem doneAndClear_kept (a : Axis) (h : ∀ act, a.slot = some act →
    act.seg.profile = none) : a.Kept a.doneAndClear := by
  unfold Axis.doneAndClear
  split
  · split
    · rename_i act _ _; exact Axis.Kept.trans (b := a.post .done act.seg.tag) (Axis.Kept.of rfl rfl rfl)
        (clearSlot_kept (a.post _ _) h)
    · exact clearSlot_kept a h
  · exact Axis.Kept.refl a

/-- A completion up to its give keeps the references. -/
theorem completeActive_kept (a : Axis) (after) : a.Kept (a.completeActive after).ax := by
  unfold Axis.completeActive
  split
  · rename_i act hsl
    split
    · exact homeReached_kept a
    · rename_i hp
      refine Axis.Kept.trans (homeReached_kept a) (doneAndClear_kept _ ?_)
      intro act' h; rw [homeReached_slot, hsl] at h; cases h; exact hp
  · exact Axis.Kept.refl a

/-- A segment placed in an empty slot is one more segment. -/
theorem placed_segs (a : Axis) (g r) : (a.placed g r).segs = a.waiting ++ [g] ∧ (a.placed g r).config = a.config := by
  unfold Axis.placed; dsimp only; split <;> exact ⟨rfl, rfl⟩

/-- Activation puts `g` in the slot. -/
theorem activate_segs (table) (a : Axis) (g : Segment) : ({ a with slot := some ⟨g, none, 0, 0,
    false⟩ } : Axis).Kept (Axis.activate table a g).ax := by
  have hbase : ({ a with slot := some ⟨g, none, 0, 0, false⟩ } : Axis).segs = a.waiting ++ [g] := rfl
  have : ∀ b : Axis, b.segs = a.waiting ++ [g] → b.config = a.config → ({ a with slot := some ⟨g, none, 0, 0,
      false⟩ } : Axis).Kept b := by
    intro b h1 h2; exact ⟨h2, fun k => by rw [h1, hbase], fun x hx => by rw [h1] at hx; rw [hbase]; exact hx⟩
  unfold Axis.activate
  split
  · exact Axis.Kept.of rfl rfl rfl
  · rename_i r _
    obtain ⟨h1, h2⟩ := placed_segs a g r
    split
    · exact Axis.Kept.trans (this _ h1 h2) (completeActive_kept _ _)
    · refine Axis.Kept.trans (this _ h1 h2)
        (Axis.Kept.trans (b := { a.placed g r with state := (a.placed g r).enteredState g.gated }) (Axis.Kept.of rfl rfl rfl)
            (beginStep_kept table _))

/-- Activating the head of the queue keeps the references. -/
theorem activateHead_kept (table) (a : Axis) : a.Kept (Axis.activateHead table a).ax := by
  unfold Axis.activateHead
  split
  · rename_i g rest hw hm
    simp [Axis.mayActivate] at hm
    dsimp only
    have key : ∀ b : Axis, b.config = a.config → b.waiting = rest → a.Kept (Axis.activate table b g).ax := by
      intro b h1 h2
      refine Axis.Kept.trans ?_ (activate_segs table b g)
      refine ⟨h1, ?_, ?_⟩
      · intro k; unfold Axis.segs; simp only [h2, hw, hm.1, queueRefs_append,
          queueRefs_cons]; simp [queueRefs_cons]; omega
      · intro x hx; unfold Axis.segs at hx ⊢; simp [h2] at hx; simp [hw]; tauto
    split <;> exact key _ rfl rfl
  · exact Axis.Kept.refl a

/-- Every task keeps the references that its axis makes: they leave and join with the store's steps alone (log entry 8). -/
theorem doTask_kept (table) (a : Axis) (t : Task) : a.Kept (Axis.doTask table a t).ax := by
  cases t <;> simp only [Axis.doTask]
  case dropWaiting =>
    split
    · rename_i h
      refine setWaiting_kept a [] (fun k => ?_) (by simp)
      have := queueRefs_dropWhile k a.waiting
      rw [h] at this; exact this
    · exact setWaiting_kept a _ (fun k => queueRefs_dropWhile k _) (fun g hg => (List.dropWhile_sublist _).subset hg)
  case dropActive =>
    split
    · rename_i act hsl hp
      split
      · exact Axis.Kept.refl a
      · rename_i hpr
        exact clearSlot_kept a (fun act' h => by rw [hsl] at h; cases h; exact hpr)
    · exact Axis.Kept.refl a
  case complete => split; exact completeActive_kept a _; exact Axis.Kept.refl a
  case next =>
    split
    · show a.Kept (a.idleWith true)
      unfold Axis.idleWith; split; exact Axis.Kept.of rfl rfl rfl; exact Axis.Kept.refl a
    · exact activateHead_kept table a
  case enterIdle notice =>
    show a.Kept (a.idleWith notice)
    unfold Axis.idleWith; split
    · dsimp only; split <;> exact Axis.Kept.of rfl rfl rfl
    · exact Axis.Kept.refl a
  case wake => split; exact activateHead_kept table a; exact Axis.Kept.refl a
  case enterFaulted cause =>
    show a.Kept (a.faultNow cause)
    unfold Axis.faultNow; split; exact Axis.Kept.of rfl rfl rfl; exact Axis.Kept.refl a
  case park => split <;> exact Axis.Kept.refl a
  case finishPulse why =>
    show a.Kept (a.finishing why)
    unfold Axis.finishing; split; exact Axis.Kept.of rfl rfl rfl; exact Axis.Kept.refl a
  case clearPause => exact Axis.Kept.of rfl rfl rfl
  case enterOff =>
    show a.Kept a.offNow
    unfold Axis.offNow; split; exact Axis.Kept.of rfl rfl rfl; exact Axis.Kept.refl a
  case expire =>
    exact Axis.Kept.trans (b := { a with periodExpired := true }) (Axis.Kept.of rfl rfl rfl) (beginStep_kept table _)
  case begin => exact beginStep_kept table _
  case cancel port tag removed =>
    split
    · exact Axis.Kept.refl a
    · rename_i h
      exact setWaiting_kept a _ (fun k => queueRefs_filter k tag _ (by simpa using h))
          (fun g hg => List.mem_of_mem_filter hg)
  case replyLength => exact Axis.Kept.refl a
  case send => exact Axis.Kept.refl a

/-- A list of tasks keeps the references. -/
theorem run_kept (table) (ts : List Task) : ∀ a : Axis, a.Kept (Axis.run table ts a).1 := by
  induction ts with
  | nil => intro a; exact Axis.Kept.refl a
  | cons t ts ih =>
    intro a
    have h := doTask_kept table a t
    unfold Axis.run
    split <;> rename_i hd <;> rw [hd] at h
    · exact Axis.Kept.trans h (ih _)
    · exact Axis.Kept.trans h (Axis.Kept.of rfl rfl rfl)
    · exact Axis.Kept.trans h (Axis.Kept.of rfl rfl rfl)

/-- Going on with an event keeps the references. -/
theorem andThen_kept (table) (r : TaskResult) (ts : List Task) : r.ax.Kept (r.andThen table ts).1 := by
  unfold TaskResult.andThen; split
  · exact run_kept table ts _
  · exact Axis.Kept.of rfl rfl rfl
  · exact Axis.Kept.of rfl rfl rfl

/-- The segment that a CANCEL removes takes its reference with it. -/
theorem find_eraseP_refs (k) (p : Segment → Bool)
    (l : List Segment) : queueRefs k (l.eraseP p) + (match l.find? p with | some g => g.refs k | none => 0) = queueRefs k l := by
  induction l with
  | nil => rfl
  | cons g l ih =>
    rw [List.eraseP_cons, List.find?_cons]
    cases h : p g
    · simp only [queueRefs_cons, cond_false]; omega
    · simp only [queueRefs_cons, cond_true]; omega

/-- What leaves takes its reference with it. -/
theorem left_segs (a : Axis) (what : Leaving) :
    (a.left what).config = a.config ∧ (∀ g, g ∈ (a.left what).segs → g ∈ a.segs) ∧
    ∀ k, queueRefs k (a.left what).segs + (match a.leaver what with | some g => g.refs k | none => 0) = queueRefs k a.segs := by
  have wait : ∀ q, (∀ g, g ∈ q → g ∈ a.waiting) → ∀ g, g ∈ ({ a with waiting := q } : Axis).segs → g ∈ a.segs := by
    intro q h g hg; unfold Axis.segs at hg ⊢
    rcases List.mem_append.mp hg with x | x
    · exact List.mem_append.mpr (.inl (h g x))
    · exact List.mem_append.mpr (.inr x)
  have act : ∀ b : Axis, b.config = a.config → b.waiting = a.waiting → b.slot = none → b.config = a.config ∧ (∀ g,
      g ∈ b.segs → g ∈ a.segs) ∧
    ∀ k, queueRefs k b.segs + (match a.slot.map Active.seg with | some g => g.refs k | none => 0) = queueRefs k a.segs := by
    intro b h1 h2 h3
    refine ⟨h1, ?_, ?_⟩
    · intro g hg; unfold Axis.segs at hg ⊢; simp [h2, h3] at hg; simp [hg]
    · intro k; unfold Axis.segs; simp [h2, h3, queueRefs_append]; cases a.slot <;> simp [queueRefs_cons]
  cases what with
  | oldest =>
    refine ⟨rfl, wait _ (fun g hg => List.mem_of_mem_tail hg), ?_⟩
    intro k; unfold Axis.segs Axis.left Axis.leaver; simp only [queueRefs_append]
    cases a.waiting with
    | nil => simp
    | cons g r => simp [queueRefs_cons]; omega
  | tagged tag =>
    refine ⟨rfl, wait _ (fun g hg => List.mem_of_mem_eraseP hg), ?_⟩
    intro k; unfold Axis.segs Axis.left Axis.leaver; simp only [queueRefs_append]
    have := find_eraseP_refs k (Segment.taggedGive tag) a.waiting
    omega
  | active c =>
    cases c with
    | false => exact act _ rfl rfl rfl
    | true =>
      show (a.doneAndClear).config = _ ∧ _ ∧ _
      unfold Axis.left Axis.leaver Axis.doneAndClear
      dsimp only
      cases hs : a.slot with
      | none =>
        refine ⟨rfl, ?_, ?_⟩
        · intro g h; exact h
        · intro k; simp
      | some x =>
        dsimp only
        have := fun b h1 h2 h3 => act b h1 h2 h3
        rw [hs] at this
        split <;> exact this _ rfl rfl rfl

end Sys2Proof.Machine
end

