-- ==== Sys2Proof/Tests/Slice0.lean ====
section
/-! SUPPORT. Tests: the bytes of requests as the spec spells them, the refusals of WellFormed, the spec's worked examples, and
for each statement of Certificates/Slice0/Obligations.lean that has hypotheses a state that meets them, clause by clause. -/

namespace Sys2Proof.Tests

open Sys2Proof Sys2Proof.Machine

/-! ## WellFormed: what it refuses -/

/-- A byte sequence with no code, with a byte that is no request code (10 Table 10-1), one argument short, one too many. -/
theorem test_wellFormed_refuses :
    requestWellFormed [] = false ∧ requestWellFormed [0x00] = false ∧ requestWellFormed [0x15] = false ∧
      requestWellFormed [0x10, 0x03] = false ∧ requestWellFormed [0x12, 0x0D, 0x00] = false ∧
      requestWellFormed [0x01] = true ∧ requestWellFormed [0x53, 0x04] = true := by decide

/-! ## Bytes (9 R163, 9.9, 9.10, 10.4) -/

/-- "The CRC of the nine ASCII bytes "123456789" is F4h ... of 01h is 07h, ... of 02h is 0Eh" (R163); Table 9-4's 80h. -/
theorem test_crc : crc8 [0x31, 0x32, 0x33, 0x34, 0x35, 0x36, 0x37, 0x38, 0x39] = 0xF4 ∧ crc8 [0x01] = 0x07 ∧
    crc8 [0x02] = 0x0E ∧ crc8 [0x80] = 0x89 := by decide +kernel

/-- The CLAIM frame of 9.9, the KEEP frame of 9.10 and its reply, and the QUEUE frame of 10.4. -/
theorem test_example_checks : crc8 [0x10, 0x03, 0x32] = 0x03 ∧ crc8 [0x12, 0x0D] = 0x5E ∧ crc8 [0x00, 0x0D] = 0x23 ∧
    crc8 [0x30, 0x02, 0x01, 0xFF, 0xE2, 0x07, 0xFF, 0x02] = 0x77 ∧ crc8 [0x00, 0x02] = 0x0E ∧ crc8 [0x07] = 0x15 := by
  decide +kernel

/-- Requests of each family, their bytes written out from 10 Table 10-1. -/
theorem test_requests_read :
    parseRequest [0x01] = some .readDevice ∧ parseRequest [0x03] = some .clearPortErrors ∧
      parseRequest [0x04] = some .restart ∧ parseRequest [0x10, 0x03, 0x32] = some (.claim 0x03 0x32) ∧
      parseRequest [0x14] = some .detach ∧
      parseRequest [0x24, 0x05, 0x12, 0x34] = some (.mutate 0x05 (.setPosition 0x1234)) ∧
      parseRequest [0x30, 0x02, 0x01, 0xFF, 0xE2, 0x07, 0xFF, 0x02] =
        some (.mutate 0x02 (.queue ⟨0x01, 0xFFE2, 0x07, 0xFF, 0x02⟩)) ∧
      parseRequest [0x37, 0x81] = some (.go 0x81) ∧
      parseRequest [0x40, 0x05, 0x0E, 0x08, 0x00, 0x03, 0x08, 0x0A, 0x00] =
        some (.defineProfile 0x05 ⟨0x0E, 0x08, 0x00, 0x03, 0x08, 0x0A, 0x00⟩) ∧
      parseRequest [0x51, 0x02, 0xFF] = some (.ackNotices 0x02 0xFF) := by decide

/-! ## States for the tests -/

/-- A device in SERVING, as after a cold start. -/
def serving : State := { State.reset with start := StartUp.cold .serving false false false }

/-- The same device with every axis as given. -/
def onAxis (a : Axis) : State := { serving with axes := Eight.same a }

/-- The same device with both port units as given. -/
def onPort (u : PortUnit) : State := { serving with ports := PerPort.same u }

/-- The same device with the same request of both ports waiting at the claim unit, and every entry as given. -/
def onClaim (r : Request) (e : ClaimEntry) : State :=
  { serving with claim := { ClaimUnit.cold with inbox := PerPort.same (some r), entries := Eight.same e } }

/-- The same device with a request of both ports waiting at the notice unit. -/
def onNotice (r : Request) : State :=
  { serving with notice := { NoticeUnit.cold with inbox := PerPort.same (some r) } }

/-- The same device with a request of both ports waiting at the profile store. -/
def onStore (r : Request) : State :=
  { serving with store := { ProfileStore.cold with inbox := PerPort.same (some r) } }

/-- A MOVE of +5 with tag 11h, notify yes, at rate 2 with the built-in profile. -/
def move : Segment := ⟨.move 5 0, 0x11, 2, false, true⟩

/-- A DWELL of `k` periods with tag 22h. -/
def dwell (k : Word16) : Segment := ⟨.dwell k, 0x22, 2, false, false⟩

/-- The MOVE in the slot with `k` steps to go. -/
def moving (k : Nat) : Active := ⟨move, some .forward, 5, k, false⟩

/-- The DWELL in the slot with `k` periods to go. -/
def dwelling (k : Nat) : Active := ⟨dwell 10, none, 10, k, false⟩

/-- A forward pulse of the built-in profile (26 du) in progress. -/
def pulse : Pulse := Pulse.first builtInShape 2 .forward .a

/-- An IDLE axis at position 100. -/
def idle : Axis := { Axis.cold with state := .idle, position := 100, positionValid := true }

/-- A RUNNING axis between pulses, `k` steps to go. -/
def between (k : Nat) : Axis := { idle with state := .running, slot := some (moving k) }

/-- A RUNNING axis in a pulse, `k` steps to go. -/
def stepping (k : Nat) : Axis :=
  { between k with pulse := some pulse, phase := .b, periodExpired := false, periodLeft := 256 }

/-- A RUNNING axis in a dwell period, `k` periods to go. -/
def waitingOut (k : Nat) : Axis :=
  { idle with state := .running, slot := some (dwelling k), dwellMark := true, periodExpired := false, periodLeft := 256 }

/-- A FAULTED axis. -/
def faulted : Axis := { idle with state := .faulted, faultKind := some .overcurrent }

/-- An axis to which the claim unit has sent one thing. -/
def Given (a : Axis) (m : AxisMsg) : Axis := { a with fromClaim := [m] }

/-- An axis to which an authorised request of Port A has been sent. -/
def Asked (a : Axis) (m : Mutation) : Axis := Given a (.request .a m)

/-- Whether an axis takes the request of Port A next. -/
def takes (a : Axis) (m : Mutation) : Bool := a.offer == some (.request .a m)

/-! ## The spec's worked examples -/

/-- The truncated pulse of 3.2.1: entry 5's forward length is 46 du, cut at 40 at rate 7. -/
theorem test_truncated_pulse :
    Pulse.first ⟨14, 8, false, 3, 8, 10, 0⟩ 7 .forward .b = ⟨.forward, .b, 46, 40, true, 0, .none⟩ ∧
      forwardDrive ⟨14, 8, false, 3, 8, 10, 0⟩ .b 38 = some .b ∧
      forwardDrive ⟨14, 8, false, 3, 8, 10, 0⟩ .b 39 = none := by decide

/-- Clipping in 2.9: at 880 with limits 100 to 900, +50 goes 20 steps; at 900, −30 goes back 30. -/
theorem test_clipping :
    ({ idle with position := 880, config := { AxisConfig.cold with loLimit := 100, hiLimit := 900 } } : Axis).resolve
        (.move 50 0) = some ⟨some .forward, 20, true⟩ ∧
      ({ idle with position := 900, config := { AxisConfig.cold with loLimit := 100, hiLimit := 900 } } : Axis).resolve
        (.move 0xFFE2 0) = some ⟨some .reverse, 30, false⟩ := by decide

/-- The lease of 7.13: 50 lease units are 2000 du, and 1000 du later 25 remain. -/
theorem test_lease : (ClaimEntry.granted .a 50).leaseLeft = 2000 ∧
    ((ClaimEntry.granted .a 50).advance 1000).leaseRemaining = 25 := by decide

/-- The QUEUE of 10.4: profile and rate FFh take the defaults, flags 02h and 06h read alike, 8Fh is refused. -/
theorem test_queue_arguments :
    segmentOf AxisConfig.cold ⟨0x01, 0xFFE2, 0x07, 0xFF, 0x02⟩ = some ⟨.move 0xFFE2 0, 0x07, 2, false, true⟩ ∧
      segmentOf AxisConfig.cold ⟨0x01, 0xFFE2, 0x07, 0xFF, 0x06⟩ = some ⟨.move 0xFFE2 0, 0x07, 2, false, true⟩ ∧
      segmentOf AxisConfig.cold ⟨0x01, 0xFFE2, 0x07, 0x8F, 0x02⟩ = none := by decide

/-- The record of 8.9: DONE 40, then DONE 41, LOST, and the acknowledgement of all kinds. -/
theorem test_notice_record :
    let r := ((NoticeRecord.empty.file .done 40).file .low 0).file .done 41
    r = ⟨0x03, 41, 2⟩ ∧ (r.file .lost 0).pending = 0x83 ∧ (r.file .lost 0).acknowledge 0xFF = NoticeRecord.empty := by
  decide

/-! ## Hypotheses met: steps, cold start, HALT -/

theorem test_StepRunsTheFrontCommand_met :
    ({ serving with pending := [.rstLow, .startingEnd] } : State).pending = .rstLow :: [.startingEnd] := by decide

theorem test_ACommandWithoutItsEventChangesNothing_met :
    serving.awaits (.enable 7) = false ∧ serving.awaits (.frameByte .b .falls) = false ∧
      (onPort { PortUnit.cold true with inHand := some .readDevice, mine := true, frame := .waiting }).awaits
        (.replyArrival .a) = false := by decide

theorem test_AnIdleStepPassesOneDriveUnit_met : serving.pending = [] := by decide

theorem test_AColdStartClearsLatchesAndServes_met :
    State.reset.start.phase = .inReset ∧ (StartUp.cold .starting true true false).phase = .starting := by decide

theorem test_HaltIsFilteredAndHolds_met :
    serving.start.haltPin ≠ true ∧
      (let t := { serving with start := { serving.start with haltPin := true, haltMeasure := 2 } }
       t.start.phase ≠ .inReset ∧ t.start.haltPin ≠ t.start.haltFiltered ∧ 2 ≤ t.start.haltMeasure) ∧
      serving.start.haltPin = serving.start.haltFiltered ∧
      ({ between 1 with haltIn := [true] } : Axis).free = true ∧ (between 1).pulse = none ∧
      (stepping 1).free = true ∧ (stepping 1).pulse ≠ none ∧
      (let a := { between 1 with state := .held, haltSeen := true, haltIn := [false] }
       a.free = true ∧ a.pauseFlag = false ∧ a.state = .held) ∧
      ({ Axis.cold with haltIn := [false] } : Axis).free = true ∧
      (let s := onPort { PortUnit.cold false with haltIn := [true] }
       s.settle .a = s ∧ (s.port .a).haltIn = [true]) := by decide

/-- A pin that has held its new level for 2 du and then changes: the level it held is taken and sent first (R186). -/
theorem test_due_halt_change_is_made :
    (match exec (.haltPin false) { serving with start := { serving.start with haltPin := true, haltMeasure := 2 } } with
      | .next t => (t.start.haltFiltered, t.start.haltPin, t.start.haltMeasure, (t.axis 7).haltIn, (t.port .b).haltIn)
      | _ => (false, false, 0, [], [])) = (true, false, 0, [true], [true]) := by decide

/-! ## Hypotheses met: frames -/

theorem test_PortEventsReachOnlyPortsAndInboxes_met :
    (portUnitOf (.frameStart .a)).isSome = true ∧
      (match exec (.frameStart .a) serving with
        | .next t => (t.port .a).sel
        | _ => false) = true := by decide

theorem test_SelectBeginsAFrame_met :
    serving.settle .b = serving ∧ (serving.port .b).sel = false ∧ serving.readyPin = true ∧
      State.reset.settle .b = State.reset ∧ (State.reset.port .b).sel = false ∧ State.reset.readyPin = false := by
  decide

/-- A port unit in a frame state, between bytes, with no request of its own in hand. -/
def framed (f : FrameState) : PortUnit := { PortUnit.cold true with frame := f }

theorem test_AByteThatBeginsShowsItsPosition_met :
    (onPort (framed .command)).settle .a = onPort (framed .command) ∧ (framed .command).inByte = false ∧
      (let u := { framed .arguments with rx := [0x10] }
       (onPort u).settle .a = onPort u ∧ u.inByte = false ∧ u.rx.length = 1) ∧
      (let u := { framed .arguments with rx := [0x10, 0x03] }
       (onPort u).settle .a = onPort u ∧ u.rx.length ≠ 1) ∧
      (onPort (framed .waiting)).settle .a = onPort (framed .waiting) ∧ (framed .waiting).waited = false ∧
      (let u := { framed .waiting with waited := true, out := some [0x00, 0x00] }
       (onPort u).settle .a = onPort u ∧ u.out ≠ none) ∧
      (let u := { framed .replying with out := some [0x00] }
       (onPort u).settle .a = onPort u ∧ u.out = some (0x00 :: [])) ∧
      (framed .draining).frameError = none ∧ (onPort (framed .draining)).settle .a = onPort (framed .draining) ∧
      (let u := { framed .draining with frameError := some .extraBytes, errorCounter := 255 }
       (onPort u).settle .a = onPort u ∧ u.frameError ≠ none) ∧
      (onPort (framed .rejecting)).settle .a = onPort (framed .rejecting) ∧
      (let u := { framed .rejecting with inByte := true, bits := [true, true, true, true, true, true, true] }
       (onPort u).settle .a = onPort u ∧ u.frame ≠ .idle ∧ u.sckLow = false ∧ u.bits.length < 8) ∧
      (let u := { framed .command with inByte := true, sckLow := true, bits := [true, false, true, false, true, false] }
       (onPort u).settle .a = onPort u ∧ u.sckLow = true ∧ u.bits.length < 7) := by decide

/-- A port unit in a frame state, before the eighth rising edge of a byte: seven bits are in, SCK is low. -/
def atEighth (f : FrameState) (bits : List Bool) : PortUnit :=
  { framed f with inByte := true, sckLow := true, bits := bits }

/-- The bits of 53h and of 54h, most significant first. -/
theorem test_ACompleteByteAdvancesTheFrame_met :
    (let u := atEighth .command [false, true, false, true, false, false, true]
     (onPort u).settle .b = onPort u ∧ argCount 0x53 ≠ none ∧ u.frameError = none ∧
       ∀ i : Fin 8, (0x53 : Byte).getLsbD (7 - i) = (u.bits ++ [true]).getD i false) ∧
      (let u := atEighth .command [false, true, false, true, false, true, false]
       argCount 0x54 = none ∧ ∀ i : Fin 8, (0x54 : Byte).getLsbD (7 - i) = (u.bits ++ [false]).getD i false) ∧
      (let u := { atEighth .arguments [false, false, false, false, false, true, true] with rx := [0x22] }
       (onPort u).settle .b = onPort u ∧ u.bits.length = 7 ∧ requestWellFormed u.rx = false) ∧
      (let u := { atEighth .replying [false, false, false, false, false, false, false] with out := some [] }
       (onPort u).settle .b = onPort u ∧ u.out = some []) ∧
      (let u := atEighth .draining [true, true, true, true, true, true, true]
       (onPort u).settle .b = onPort u ∧ u.inByte = true ∧ u.sckLow = true) := by decide

/-- The bits of 5Eh, which is the check byte, and of 5Fh, which is not. -/
theorem test_TheCheckByteLetsTheRequestPass_met :
    let u := { atEighth .arguments [false, true, false, true, true, true, true] with rx := encodeRequest (.keep 0x0D) }
    (∀ i : Fin 8, (0x5E : Byte).getLsbD (7 - i) = (u.bits ++ [false]).getD i false) ∧
      (∀ i : Fin 8, (0x5F : Byte).getLsbD (7 - i) = (u.bits ++ [true]).getD i false) ∧
      (onPort u).settle .a = onPort u ∧ (0x5E : Byte) = crc8 u.rx ∧ u.inHand = none ∧
      (onPort u).start.phase.restarting = false ∧ (0x5F : Byte) ≠ crc8 u.rx ∧ u.frameError = none ∧
      (let v := { u with inHand := some (.go 0x01) }
       (onPort v).settle .a = onPort v ∧ v.inHand ≠ none) := by decide +kernel

theorem test_ReleaseEndsAFrame_met :
    (onPort (framed .command)).settle .a = onPort (framed .command) ∧ (framed .command).sel = true ∧
      (framed .command).inByte = false ∧
      (let u := { framed .rejecting with frameError := some .checkFailed }
       (onPort u).settle .a = onPort u ∧ u.frameError ≠ none ∧ u.frame ≠ .command) ∧
      (onPort (framed .draining)).settle .a = onPort (framed .draining) ∧ (framed .draining).frameError = none ∧
      (let u := { framed .command with inByte := true }
       (onPort u).settle .a = onPort u ∧ u.frameError = none) := by decide

theorem test_AReplyEndsTheRequestInHand_met :
    (let u := { framed .waiting with inHand := some (.go 0xFF), mine := true, replyIn := some ⟨.ok, [0x00, 0xFF]⟩ }
     (onPort u).settle .a = onPort u ∧ u.held = none ∧ u.replyIn ≠ none) ∧
      (let u := { framed .waiting with
                  inHand := some (.go 0xFF), held := some .detach, replyIn := some ⟨.badArgument, []⟩ }
       (onPort u).settle .a = onPort u ∧ u.held = some .detach ∧ (onPort u).start.phase.restarting = false) := by decide

theorem test_APortTakesItsOwnRequests_met :
    ∀ r ∈ [Request.readDevice, .readPortStatus, .clearPortErrors, .restart],
      let u := { framed .waiting with inHand := some r, mine := true }
      (onPort u).port .b = u ∧ u.held = none ∧ u.inHand = some r := by decide

theorem test_AWholeRequestPhaseHandsItsRequestOn_met :
    serving.readyPin = true ∧ serving.start.phase.restarting = false ∧ (serving.port .a).sel = false ∧
      (serving.port .a).inHand = none ∧ (∀ n, (serving.axis n).busy = .none) ∧ serving.start.phase = .serving := by
  decide

/-- MISO carries a byte's most significant bit at its first falling edge and the next at the second: the summary is 40h
(R158, R160). -/
theorem test_miso_bits :
    let u := { framed .command with summary := 0x40 }
    (match exec (.frameByte .a .falls) (onPort u) with
      | .next t => t.misoPin .a
      | _ => .highImpedance) = .level false ∧
    (match execAll [.frameByte .a .falls, .frameByte .a (.rises true), .frameByte .a .falls] (onPort u) with
      | .next t => t.misoPin .a
      | _ => .highImpedance) = .level true := by decide

/-- The whole frame of 9.9, MOSI bits as the host sends them: the CLAIM waits at the claim unit. -/
theorem test_claim_frame :
    (match execAll (.frameStart .a :: byteCommands .a [0x10, 0x03, 0x32, 0x03]) serving with
      | .next t => t.claim.inbox.get .a
      | _ => none) = some (.claim 0x03 0x32) := by decide +kernel

/-! ## Hypotheses met: RESTART -/

/-- A restart step waits for a request that the controller has been handed, and is taken once it is gone (R27). -/
theorem test_restart_step_waits :
    let a := { Asked idle .pause with restartIn := true }
    (match exec (.axisRestartStep 7) (onAxis a) with
        | .next t => t == onAxis a
        | _ => false) = true ∧
      (match exec (.axisRestartStep 7) (onAxis { a with fromClaim := [.lapse] }) with
        | .next t => t.start.quietSent.get 7
        | _ => false) = true := by decide

/-- A device in SERVING with a RESTART of both ports waiting and the latch at a level. -/
def restarting (latch : Bool) : State :=
  { serving with start := { serving.start with supvLatch := latch, restartWaiting := PerPort.same true } }

theorem test_ARestartBeginsOrIsRefused_met :
    (restarting true).start.phase = .serving ∧ (restarting true).start.restartWaiting.get .a = true ∧
      (restarting true).start.supvLatch = true ∧ (restarting false).start.restartWaiting.get .b = true := by decide

theorem test_TheRestartStepQuietsAnAxis_met :
    (∀ a ∈ [Axis.cold, idle, { faulted with waiting := [move] }, between 1, { between 5 with state := .armed },
        { between 5 with state := .held, pauseFlag := true }, stepping 1],
      let b := { a with restartIn := true }
      b.free = true ∧ b.restartIn = true ∧ b.fromClaim = [] ∧ b.reads = PerPort.same none) ∧
      (Asked idle .stop).fromClaim = [.request .a .stop] ∧
      ({ idle with reads := PerPort.same (some ⟨true, true⟩) } : Axis).reads.get .b ≠ none ∧
      faulted.slot = none ∧ (between 1).pulse = none ∧ (between 1).slot = some (moving 1) ∧
      (stepping 1).pulse = some pulse := by decide

theorem test_TheClaimUnitsRestartStepClearsItsTable_met :
    ({ serving with claim := { serving.claim with restartIn := true } } : State).claim.restartIn = true ∧
      0 < ({ serving.claim with answersIn := 1, awaiting := 1 } : ClaimUnit).answersIn := by decide

/-- A restart with one report missing. -/
def eightQuiet : StartUp :=
  { StartUp.cold .restartStopping false false false with
    quietSent := (Eight.same false).set 7 true, quietSeen := (Eight.same true).set 7 false, doneSeen := true }

theorem test_NineReportsBringTheClear_met :
    eightQuiet.quietSent.get 7 = true ∧ eightQuiet.doneSeen = true ∧
      (∀ n, (eightQuiet.quietSeen.set 7 true).get n = true) ∧
      (StartUp.cold .restartStopping false false false).doneSeen = false ∧
      ({ StartUp.cold .restartStopping false false false with doneSent := true } : StartUp).doneSent = true ∧
      (let s := { serving with notice := { NoticeUnit.cold with clearIn := true } }
       let t := { s with claim := { ClaimUnit.cold with toNotice := [.report 7 none true, .posting .lapsed 7 .a] } }
       let u := { s with axes := s.axes.set 7 { idle with posts := [⟨.idle, 0⟩] } }
       s.notice.clearIn = true ∧ s.postingWaits = false ∧ t.notice.clearIn = true ∧
         NoticeMsg.posting .lapsed 7 .a ∈ t.claim.toNotice ∧ u.notice.clearIn = true ∧ (u.axis 7).posts ≠ []) := by decide

/-- A LAPSED that waits as a restart reaches quiet is removed by the clear (R141, R185). -/
theorem test_a_lapsed_before_the_restart_step_is_cleared :
    let s := { serving with
      notice := { NoticeUnit.cold with clearIn := true }
      claim := { ClaimUnit.cold with toNotice := [.posting .lapsed 7 .a] } }
    (∃ t, execAll [.restartClear] s = .next t ∧ t.start.clearAnswered = false) ∧
      ∃ t, execAll [.noticePosting .claimUnit, .restartClear] s = .next t ∧
        t.start.clearAnswered = true ∧ t.notice.record .a 7 = ⟨0, 0, 0⟩ :=
  ⟨⟨_, rfl, by decide⟩, _, rfl, by decide⟩

theorem test_ARestartEndsWithClearPorts_met :
    let st := { StartUp.cold .restartClearing false false false with clearAnswered := true, restarter := some .a }
    let s := { serving with start := st }
    let t := { s with ports := ⟨{ framed .waiting with inHand := some .restart, mine := true }, framed .waiting⟩ }
    let v := { t with ports := t.ports.set .b { framed .waiting with held := some .detach } }
    let w := { t with ports := PerPort.same { framed .waiting with held := some .detach } }
    s.settle .a = s ∧ s.settle .b = s ∧ t.settle .a = t ∧ t.settle .b = t ∧ v.settle .a = v ∧ v.settle .b = v ∧
      (v.port .b).held = some .detach ∧ (v.port .b).inHand = none ∧ (v.port .a).held = none ∧
      w.settle .a = w ∧ w.settle .b = w ∧ (w.port .a).held = some .detach ∧
      (let x := { t with ports := PerPort.same { framed .waiting with held := some .detach, inHand := some .restart } }
       x.settle .a = x ∧ x.settle .b = x ∧ (x.port .a).held = some .detach ∧ (x.port .a).inHand ≠ none) := by decide

/-! ## Hypotheses met: claims -/

theorem test_AClaimIsGrantedRenewedOrRefused_met :
    (onClaim (.claim 0x08 0xFF) .free).claim.inbox.get .a = some (.claim 0x08 0xFF) ∧ 8 ≤ (0x08 : Byte).toNat ∧
      (0x07 : Byte).toNat = (7 : AxisId).val ∧ ((onClaim (.claim 0x07 0x00) .free).entry 7).owner = none ∧
      ((onClaim (.claim 0x07 0xFF) (.granted .a 1)).entry 7).owner = some .a ∧
      ((onClaim (.claim 0x07 0xFF) (.granted .b 1)).entry 7).owner = some Port.a.other := by decide

theorem test_ASeizeTakesTheAxisForTheSupervisor_met :
    (∀ k ∈ [(0x00 : Byte), 0x01, 0x02], ∀ e ∈ [ClaimEntry.free, .granted .a 9, .granted .b 9],
      (onClaim (.seize 0x07 0x00 k) e).claim.inbox.get .b = some (.seize 0x07 0x00 k) ∧
        ((onClaim (.seize 0x07 0x00 k) e).entry 7).owner = e.owner) ∧
      2 ≤ (0x02 : Byte).toNat ∧ (0x01 : Byte).toNat < 2 ∧
      ({ onClaim (.seize 0x00 0x00 0x00) .free with start := StartUp.cold .serving true true false } :
        State).start.supvLatch = true := by decide

theorem test_OnlyTheOwnerPassesAndRenews_met :
    (onClaim (.mutate 0x08 .pause) .free).claim.inbox.get .b = some (.mutate 0x08 .pause) ∧
      (onClaim (.mutate 0x07 .pause) .free).claim.inbox.get .b = some (.mutate 0x07 .pause) ∧
      ((onClaim (.mutate 0x07 .pause) .free).entry 7).owner ≠ some .b ∧
      ((onClaim (.mutate 0x00 .pause) (.granted .b 255)).entry 0).owner = some .b ∧
      (onClaim (.keep 0xFF) (.granted .b 255)).claim.inbox.get .b = some (.keep 0xFF) := by decide

theorem test_AClaimEndsByReleaseOrExpiry_met :
    (∀ k ∈ [(0x00 : Byte), 0x01, 0x02, 0x03],
      (onClaim (.release 0x07 k) (.granted .a 50)).claim.inbox.get .a = some (.release 0x07 k)) ∧
      3 ≤ (0x03 : Byte).toNat ∧ (0x02 : Byte).toNat < 3 ∧
      ((onClaim (.release 0x07 0x00) (.granted .a 50)).entry 7).owner = some .a ∧
      ((onClaim (.release 0x07 0x00) .free).entry 7).owner ≠ some .a ∧
      ((onClaim .detach (.granted .a 255)).entry 7).leasePeriod ≠ 0 ∧
      ((onClaim .detach (.granted .a 0)).entry 0).leasePeriod = 0 := by decide

theorem test_ADetachEndsEveryClaimOfItsPort_met :
    (onClaim .detach (.granted .a 50)).claim.inbox.get .a = some .detach ∧
      (∀ n : AxisId, (0xFF : Byte).getLsbD n.val = true ↔
        ((onClaim .detach (.granted .a 50)).entry n).owner = some .a) ∧
      (let u := { framed .waiting with
                  inHand := some .detach, collect := .detach 0xC0 0xC0 true, clearAnswer := true
                  detachAnswers := Eight.same true }
       let v := { u with collect := .detach 0xC0 0x80 false }
       let w := { u with collect := .detach 0x00 0x00 true }
       (onPort u).settle .a = onPort u ∧ u.detachAnswers.get 7 = true ∧ (0xC0 : Byte) &&& ~~~oneMask 7 = 0x40 ∧
         (onPort v).settle .a = onPort v ∧ (0x80 : Byte) &&& ~~~oneMask 7 = 0 ∧ (onPort w).settle .a = onPort w ∧
         w.clearAnswer = true) := by decide

theorem test_AGoStartsTheNamedAxesItsPortOwns_met :
    (onClaim (.go 0x81) (.granted .b 50)).claim.inbox.get .b = some (.go 0x81) ∧
      (∀ n : AxisId, (0x81 : Byte).getLsbD n.val = true ↔
        (0x81 : Byte).getLsbD n.val = true ∧ ((onClaim (.go 0x81) (.granted .b 50)).entry n).owner = some .b) ∧
      (∀ n : AxisId, (0x00 : Byte).getLsbD n.val = true ↔
        (0xFF : Byte).getLsbD n.val = true ∧ ((onClaim (.go 0xFF) .free).entry n).owner = some .b) ∧
      (let u := { framed .waiting with
                  inHand := some (.go 0x81), collect := .go 0x81 0x00 0x81, startAnswers := Eight.same (some true) }
       let v := { u with collect := .go 0x81 0x01 0x80 }
       (onPort u).settle .b = onPort u ∧ u.startAnswers.get 7 = some true ∧ (0x81 : Byte) &&& ~~~oneMask 7 ≠ 0 ∧
         (onPort v).settle .b = onPort v ∧ (0x80 : Byte) &&& ~~~oneMask 7 = 0) := by decide

/-! ## Hypotheses met: requests at an axis -/

theorem test_ReadsReportTheAxisAndItsClaim_met :
    (∀ q ∈ [true, false], ∀ x ∈ [true, false],
      let a := { stepping 1 with waiting := [move, dwell 1], reads := PerPort.same (some ⟨q, x⟩) }
      a.free = true ∧ a.reads.get .b = some ⟨q, x⟩) ∧ lowAxis 0x0F = 7 ∧ axisOf 0x08 = none := by decide

theorem test_EnableAndDisableMoveAnAxisInAndOutOfService_met :
    takes (Asked Axis.cold .enable) .enable = true ∧ takes (Asked idle .enable) .enable = true ∧
      takes (Asked Axis.cold .disable) .disable = true ∧ takes (Asked idle .disable) .disable = true ∧
      idle.slot = none ∧ idle.waiting = [] ∧
      takes (Asked { faulted with waiting := [move, dwell 1] } .disable) .disable = true ∧ faulted.slot = none ∧
      takes (Asked (stepping 1) .disable) .disable = true := by decide

theorem test_AClearFaultActivatesTheHead_met :
    let goto : Segment := ⟨.goto 100 0, 0x33, 2, false, true⟩
    takes (Asked Axis.cold .clearFault) .clearFault = true ∧ takes (Asked idle .clearFault) .clearFault = true ∧
      takes (Asked faulted .clearFault) .clearFault = true ∧ faulted.slot = none ∧ faulted.waiting = [] ∧
      faulted.resolve move.job = some ⟨some .forward, 5, false⟩ ∧ faulted.resolve goto.job = some ⟨none, 0, false⟩ ∧
      goto.isDwell = false ∧ goto.isHome = false ∧ ({ faulted with positionValid := false } : Axis).resolve goto.job = none := by
  decide

theorem test_ArgumentsAreCheckedAndRead_met :
    configOf ⟨0, 1000, 0, 4095, 1000, 0x77, 0x00, 0x23⟩ ≠ none ∧ configOf ⟨0, 1000, 0, 4096, 1000, 0, 0, 0⟩ = none ∧
      configOf ⟨0, 1000, 0, 1, 1000, 0, 0, 0x30⟩ = none ∧ segmentOf AxisConfig.cold ⟨0x04, 1, 0, 0xFF, 0⟩ ≠ none ∧
      segmentOf AxisConfig.cold ⟨0x04, 0, 0, 0xFF, 0⟩ = none ∧
      segmentOf AxisConfig.cold ⟨0x01, 0x8000, 0, 0xFF, 0⟩ = none ∧
      segmentOf AxisConfig.cold ⟨0x02, 0x8000, 0, 0x77, 0⟩ ≠ none ∧
      segmentOf AxisConfig.cold ⟨0x05, 1, 0, 0x77, 0⟩ = none := by decide

theorem test_AConfigurationIsExchangedWholeOrRefused_met :
    let good : ConfigureArgs := ⟨0, 1000, 0, 720, 1000, 0x02, 0x02, 0x01⟩
    let c : AxisConfig := { AxisConfig.cold with hiLimit := 1000, parkPosition := 1000 }
    let waits := { idle with busy := .configure .a c }
    takes (Asked (stepping 1) (.configure good)) (.configure good) = true ∧
      takes (Asked idle (.configure good)) (.configure good) = true ∧ configOf good = some c ∧
      configOf { good with homeOverdrive := 0 } = none ∧
      configOf { good with parkPosition := 1001 } = some { c with parkPosition := 1001 } ∧
      ((onAxis waits).axis 7).busy = .configure .a c ∧
      ((onAxis waits).table.get c.parkProfile).state.shape = some builtInShape ∧
      reverseTotal builtInShape ≤ period c.parkRate ∧ ((onAxis waits).table.get 7).state.shape = none ∧
      period 7 < reverseTotal ⟨6, 0, false, 5, 12, 14, 4⟩ := by decide

theorem test_SetPositionMakesThePositionKnown_met :
    takes (Asked (stepping 1) (.setPosition 0)) (.setPosition 0) = true ∧
      takes (Asked Axis.cold (.setPosition 0xFFFF)) (.setPosition 0xFFFF) = true ∧
      (0xFFFF : Word16).toNat ≤ AxisConfig.cold.hiLimit.toNat ∧
      takes (Asked { idle with config := { AxisConfig.cold with hiLimit := 1000 } } (.setPosition 1001))
        (.setPosition 1001) = true ∧ 1000 < (1001 : Word16).toNat := by decide

/-! ## Hypotheses met: segments -/

theorem test_AQueueIsRefusedJoinsOrAsks_met :
    let q : QueueArgs := ⟨0x04, 1, 0x22, 0xF2, 0⟩
    (∀ a ∈ [Axis.cold, faulted, idle, stepping 1, { stepping 1 with waiting := [move, move, move] },
        { stepping 1 with waiting := [move, move, move, move] }], takes (Asked a (.queue q)) (.queue q) = true) ∧
      segmentOf AxisConfig.cold q = some (dwell 1) ∧ (dwell 1).isDwell = true ∧ idle.slot = none ∧
      segmentOf AxisConfig.cold ⟨0x01, 5, 0x11, 0x02, 0x02⟩ = some move ∧ move.isDwell = false ∧
      segmentOf AxisConfig.cold ⟨0x00, 5, 0x11, 0x02, 0x02⟩ = none := by decide

theorem test_AnAdmissionTakeAdmitsOrRefuses_met :
    let goto : Segment := ⟨.goto 100 0, 0x33, 2, false, true⟩
    ((onAxis { idle with busy := .admission .b move }).axis 7).busy = .admission .b move ∧ move.profile = some 0 ∧
      ({ move with job := .move 5 7 } : Segment).profile = some 7 ∧ ((onAxis idle).table.get 7).state.shape = none ∧
      ((onAxis idle).table.get 0).state.shape = some builtInShape ∧ move.reversible = false ∧ goto.reversible = true ∧
      idle.resolve move.job = some ⟨some .forward, 5, false⟩ ∧ idle.resolve goto.job = some ⟨none, 0, false⟩ ∧
      ({ idle with positionValid := false } : Axis).resolve goto.job = none ∧ (stepping 1).state ≠ .idle ∧
      ({ goto with rate := 7 } : Segment).reversible = true := by decide

theorem test_SegmentsResolveAgainstTheAxis_met :
    idle.config.loLimit.toNat ≤ idle.config.hiLimit.toNat ∧ idle.positionValid = true ∧
      Axis.cold.positionValid = false := by decide

theorem test_CancelRemovesEveryWaitingSegmentOfATag_met :
    let a := Asked { stepping 1 with waiting := [move, dwell 1, move, { move with tag := 0x12 }] } (.cancel 0x11)
    (onAxis a).axis 7 = a ∧ takes a (.cancel 0x11) = true := by decide

/-! ## Going on to what waits -/

/-- A GOTO to 100 with tag 33h. -/
def goto100 : Segment := ⟨.goto 100 0, 0x33, 2, false, true⟩

/-- A head with a count of 0 completes and the MOVE behind it runs (R48); a GOTO without a known position leaves it waiting
behind the fault (R44); an axis with nothing waiting is IDLE (R12). -/
theorem test_going_on :
    (let r := Axis.goesOn serving.table [goto100, move] (between 1).clearSlot
     r.2 = [goto100] ∧ r.1.slot = some (moving 5) ∧ r.1.state = .running ∧ r.1.pulse ≠ none ∧
       r.1.posts = [⟨.low, 0⟩, ⟨.done, 0x33⟩]) ∧
    (let r := Axis.goesOn serving.table [goto100, move] { (between 1).clearSlot with positionValid := false }
     r.2 = [goto100] ∧ r.1.waiting = [move] ∧ r.1.state = .faulted ∧ r.1.faultKind = some .noReference ∧
       r.1.posts = [⟨.low, 0⟩, ⟨.fault, 0⟩]) ∧
    (Axis.goesOn serving.table [] (between 1).clearSlot).1 = { idle with posts := [⟨.idle, 0⟩] } ∧
    Axis.wakes serving.table idle = (idle, []) := by decide

/-- A PARK from 100 to park_position 0 goes 100 steps back with tag FFh; at 0 it completes at once (R109). -/
theorem test_parking :
    (let r := Axis.parks serving.table idle
     r.2 = [] ∧ r.1.state = .running ∧ r.1.slot = some ⟨AxisConfig.cold.park, some .reverse, 100, 100, false⟩) ∧
    (let r := Axis.parks serving.table { idle with position := 0 }
     r.2 = [AxisConfig.cold.park] ∧ r.1.state = .idle ∧ r.1.slot = none ∧ r.1.posts = [⟨.done, 0xFF⟩, ⟨.idle, 0⟩]) := by
  decide

/-! ## Hypotheses met: holds, SKIP, stops, parks, starts -/

theorem test_PauseHoldsAndResumeReleases_met :
    (∀ a ∈ [Axis.cold, between 1, stepping 1, idle], takes (Asked a .pause) .pause = true) ∧
      (between 1).pulse = none ∧ (stepping 1).pulse ≠ none ∧
      (∀ a ∈ [Axis.cold, { between 1 with state := .held, pauseFlag := true },
          { between 1 with state := .held, pauseFlag := true, haltSeen := true }, idle],
        takes (Asked a .resume) .resume = true) := by decide

theorem test_SkipEndsTheActiveSegment_met :
    (∀ a ∈ [Axis.cold, idle, faulted, stepping 1, { stepping 1 with pulse := some { pulse with endAction := .skip } },
        between 1, { between 1 with state := .held, waiting := [move] }, { between 5 with state := .armed }],
      takes (Asked a .skip) .skip = true) ∧ pulse.endAction = .none ∧ (between 1).slot = some (moving 1) ∧
      (between 1).resolve move.job = some ⟨some .forward, 5, false⟩ := by decide

/-- STOP and each action of the claim unit that ends work, as messages to an axis. -/
def stops : List AxisMsg := [.request .a .stop, .release .a true, .release .b false, .seize .b, .lapse, .detach .a]

theorem test_StopsAndActionsAtRestAndInAPulse_met :
    (∀ a ∈ [Axis.cold, { idle with positionValid := false }, { faulted with waiting := [move] }, stepping 1,
        { stepping 1 with state := .stopping, pulse := some { pulse with endAction := .finish .restart } }],
      ∀ m ∈ stops, (Given a m).offer = some m ∧ m.endsWork a.config.lapseAction ≠ none) ∧
      (stepping 1).pulse = some pulse ∧
      (let a := { idle with config := { idle.config with lapseAction := .finish } }
       (Given a .lapse).offer = some .lapse ∧ a.config.lapseAction = .finish) := by decide

theorem test_StopsAndActionsBetweenPulsesEndAllWork_met :
    ∀ a ∈ [{ between 1 with positionValid := false }, { between 1 with positionValid := false, state := .held },
        { between 5 with positionValid := false, state := .armed, waiting := [move, dwell 1] }],
      ∀ m ∈ stops, (Given a m).offer = some m ∧ m.endsWork a.config.lapseAction ≠ none ∧ a.pulse = none ∧
        a.slot ≠ none ∧ a.positionValid = false := by decide

theorem test_AParkIsPlacedWhereThePositionIsKnown_met :
    (∀ a ∈ [idle, { idle with position := 0 }, between 1, { between 1 with state := .held, waiting := [move, dwell 1] }],
      (Given a (.release .a true)).offer = some (.release .a true) ∧ a.positionValid = true ∧ a.pulse = none) ∧
      AxisMsg.endsWork .stop (.release .a true) = some .park ∧ AxisMsg.endsWork .park (.detach .b) = some .park ∧
      idle.slot = none ∧ (between 1).slot = some (moving 1) := by decide

theorem test_AStartLetsAnArmedAxisGo_met :
    (∀ a ∈ [{ between 5 with state := .armed, pauseFlag := true }, { between 5 with state := .armed },
        { between 5 with state := .armed, periodExpired := false, periodLeft := 48 }, stepping 1],
      (Given a (.start .a)).offer = some (.start .a)) ∧ (stepping 1).state ≠ .armed ∧
      (between 5).periodExpired = true ∧ (between 5).haltSeen = false := by decide

/-! ## Hypotheses met: profiles -/

theorem test_ProfilesAreDefinedDeletedAndRead_met :
    let f : ProfileArgs := ⟨6, 0, 0, 2, 6, 10, 0⟩
    (onStore (.defineProfile 0x07 f)).store.inbox.get .b = some (.defineProfile 0x07 f) ∧
      shapeOf f = some ⟨6, 0, false, 2, 6, 10, 0⟩ ∧ shapeOf { f with fwdMain := 7 } = none ∧
      (onStore (.deleteProfile 0x07)).store.inbox.get .b = some (.deleteProfile 0x07) ∧
      (onStore (.readProfile 0x08)).store.inbox.get .b = some (.readProfile 0x08) ∧
      ((onStore (.readProfile 0x07)).table.get 7).refCount = 0 ∧
      0 < ({ (onStore (.deleteProfile 0x07)) with
        store := { ProfileStore.cold with entries := Eight.same ⟨.defined builtInShape, 1⟩ } } : State).table.e7.refCount := by
  decide

theorem test_AGiveReturnsOneReference_met :
    (∀ w ∈ [(Leaving.oldest, [Task.dropWaiting, .enterOff]), (.tagged 0x11, [.cancel .a 0x11 1]), (.active false, [.next]),
        (.active true, [.next, .begin])],
      let a := { between 5 with waiting := [move], busy := .give w.1 w.2 }
      (onAxis a).axis 7 = a ∧ a.leaver w.1 = some move) ∧ move.profile = some 0 ∧ (dwell 1).profile = none := by decide

/-! ## Hypotheses met: steps and pulses -/

theorem test_PulsesDriveTheirParts_met :
    (onAxis (stepping 5)).axis 0 = stepping 5 ∧ (stepping 5).tripped = false ∧ move.profile = some 0 ∧
      ((onAxis (stepping 5)).table.get 0).state.shape = some builtInShape ∧ pulse.cutAt ≤ 10 + 4 * 4 ∧
      (Pulse.first builtInShape 2 .reverse .a).cutAt = 3 + 8 + 10 + 4 * 0 := by decide

/-- The built-in profile's forward pulse drives A for 10 du, then the first du of each tail cycle (Table 4-2, R61). -/
theorem test_forward_outputs :
    forwardDrive builtInShape .a 9 = some .a ∧ forwardDrive builtInShape .a 10 = some .a ∧
      forwardDrive builtInShape .a 11 = none ∧ forwardDrive builtInShape .a 14 = some .a ∧
      forwardDrive builtInShape .a 26 = none := by decide

/-- Its reverse pulse drives B for 3 du, A for 8, B for 10 (R62). -/
theorem test_reverse_outputs :
    reverseDrive builtInShape .a 2 = some .b ∧ reverseDrive builtInShape .a 3 = some .a ∧
      reverseDrive builtInShape .a 11 = some .b ∧ reverseDrive builtInShape .a 21 = none := by decide

theorem test_APeriodExpiryBeginsTheNextStep_met :
    (∀ a ∈ [{ between 1 with periodExpired := false, periodLeft := 256 },
        { between 5 with state := .held, periodExpired := false }, { between 5 with state := .armed, periodExpired := false },
        { waitingOut 2 with dwellMark := false }, waitingOut 2, { waitingOut 2 with state := .held }, waitingOut 1,
        { waitingOut 1 with waiting := [goto100, move] }],
      a.free = true ∧ a.periodExpired = false ∧ a.pulse = none ∧ a.slot ≠ none) ∧ (moving 1).direction = some .forward ∧
      0 < (moving 1).remaining ∧ (dwelling 2).seg.isDwell = true ∧
      (∀ a ∈ [Axis.cold, idle, { faulted with waiting := [move] }],
        let b := { a with periodExpired := false, periodLeft := 9 }
        b.free = true ∧ b.slot = none ∧ b.pulse = none) ∧
      (let a := { stepping 5 with tripped := true }
       a.free = true ∧ a.pulse ≠ none ∧ a.dwellMark = false ∧ a.periodExpired = false) := by decide

/-- A forward pulse of 56 du at rate 7, whose period of 40 du cuts it (R65). -/
def cutPulse : Pulse := Pulse.first ⟨24, 8, false, 3, 8, 10, 0⟩ 7 .forward .a

/-- A MOVE at rate 7 with `k` steps to go. -/
def fast (k : Nat) : Active := ⟨{ move with rate := 7 }, some .forward, 5, k, false⟩

/-- A RUNNING axis in a truncated pulse of that MOVE, 1 du before its end, which is the period's. -/
def fastStep (k : Nat) : Axis :=
  { idle with
    state := .running, slot := some (fast k), pulse := some { cutPulse with elapsed := 39 }, phase := .b
    periodExpired := false, periodLeft := 1 }

theorem test_APulseEndCountsItsStep_met :
    (∀ a ∈ [stepping 2, { stepping 5 with haltSeen := true }, fastStep 2, { fastStep 2 with pauseFlag := true }],
      (onAxis a).axis 7 = a ∧ a.free = true ∧ a.tripped = false ∧ a.pulse ≠ none ∧ 1 < a.remaining ∧
        a.state = .running ∧ a.periodExpired = false) ∧
      pulse.endAction = .none ∧ cutPulse.endAction = .none ∧ pulse.cutAt ≠ period 2 ∧
      (cutPulse.cutAt = period 7 ∧ (fastStep 2).periodLeft ≤ cutPulse.cutAt - 39) ∧
      (fast 2).direction = some .forward ∧ (fast 2).seg.isDwell = false := by decide

theorem test_TheLastPulseCompletesItsSegment_met :
    (∀ a ∈ [stepping 1, fastStep 1, { fastStep 1 with waiting := [goto100, dwell 1] }],
      ∀ e ∈ [EndAction.none, .skip, .finish .stop],
        let b := { a with state := e.runsIn, pulse := a.pulse.map fun pl => { pl with endAction := e } }
        (onAxis b).axis 7 = b ∧ b.free = true ∧ b.tripped = false ∧ b.pulse ≠ none ∧ b.remaining = 1 ∧
          b.periodExpired = false) ∧
      (moving 1).seg.profile ≠ none ∧ (fast 1).seg.profile ≠ none := by decide

theorem test_EndActionsDiscardTheSegment_met :
    (∀ e ∈ [EndAction.skip, .finish .stop, .finish .restart, .finish .park],
      ∀ x ∈ [stepping 2, { stepping 2 with waiting := [goto100, move] }, fastStep 1, { fastStep 2 with positionValid := false }],
        let a := { x with state := e.runsIn, pulse := x.pulse.map fun pl => { pl with endAction := e } }
        (onAxis a).axis 7 = a ∧ a.free = true ∧ a.tripped = false ∧ a.pulse ≠ none ∧ a.periodExpired = false) ∧
      0 < (moving 2).remaining ∧ 1 < (fast 2).remaining ∧ (moving 2).seg.profile ≠ none ∧ pulse.cutAt ≠ period 2 ∧
      (cutPulse.cutAt = period 7 ∧ (fastStep 2).periodLeft ≤ cutPulse.cutAt - 39) := by decide

/-- A pulse that a PARK-type action has sent to its end with 2 steps left, at 100: the axis is at 101, and goes back 101 steps
(R110). -/
theorem test_park_at_a_pulse_end :
    (match execAll [.pulseEnd 7, .give 7, .parkTake 7]
        (onAxis { stepping 2 with state := .stopping, pulse := some { pulse with endAction := .finish .park } }) with
      | .next t => ((t.axis 7).state, (t.axis 7).remaining, (t.axis 7).position)
      | _ => (.off, 0, 0)) = (.running, 101, 101) := by decide

theorem test_AnOvercurrentCutsThePulseAndFaults_met :
    (stepping 5).pulse = some pulse ∧ (stepping 5).slot = some (moving 5) ∧ (onAxis (stepping 5)).coilPin 7 .a = true ∧
      ({ stepping 5 with busy := .give .oldest [] } : Axis).free = false ∧
      (let a := { stepping 5 with pulse := some { pulse with elapsed := 11 } }
       (onAxis a).coilPin 7 .a = false ∧ (onAxis a).coilPin 7 .b = false ∧ a.tripped = false) ∧
      ({ stepping 5 with tripped := true } : Axis).free = true ∧ (stepping 5).waiting = [] ∧
      ({ pulse with endAction := .finish .restart } : Pulse).endAction = .finish .restart := by decide

/-! ## Hypotheses met: notices -/

theorem test_PostingsAreFiledWhereTheyBelong_met :
    (∀ k ∈ [NoticeKind.done, .low],
      ((onAxis { idle with posts := [⟨k, 0x11⟩] }).axis 7).posts = ⟨k, 0x11⟩ :: []) ∧
      ({ ClaimUnit.cold with toNotice := [.posting .lost 7 .a] } : ClaimUnit).toNotice = .posting .lost 7 .a :: [] := by
  decide

theorem test_ReportsWriteTheRoutingAndADetachClears_met :
    ∀ m ∈ [NoticeMsg.report 7 (some .b) true, .report 0 none false, .clear .b],
      ({ ClaimUnit.cold with toNotice := [m] } : ClaimUnit).toNotice = m :: [] := by decide

theorem test_NoticesAreReadAndAcknowledged_met :
    ∀ r ∈ [Request.readNotices 0x07, .readNotices 0x08, .ackNotices 0x08 0xFF, .ackNotices 0x00 0xFE, .ackNotices 0x07 0x01],
      (onNotice r).notice.inbox.get .b = some r := by decide

theorem test_MasksDecideAttention_met :
    ∀ r ∈ [Request.setNoticeMask 0xFF, .setNoticeMask 0x00, .setWatch 0x80],
      (onNotice r).notice.inbox.get .b = some r := by decide

/-! ## Hypotheses met: what every step keeps -/

/-- A cold axis is sound; every axis of the reset state is one. -/
theorem test_cold_axis_sound : Axis.cold.Shaped ∧ Axis.cold.Placed := by
  have hv : AxisConfig.cold.Valid := ⟨by decide, by decide, by decide, by decide⟩
  refine ⟨⟨?_, ?_, ?_, ?_, ?_, ?_, ?_, ?_, ?_, ?_, ?_, ?_, ?_⟩, ⟨hv, ?_, ?_, ?_, ?_⟩⟩ <;>
    simp [Axis.cold, AxisState.active, Config.queueDepth]

theorem test_OneCoilAtMostAndOnlyInMotion_met : State.reset.AxesSound := by
  intro n
  have e : State.reset.axis n = Axis.cold := by fin_cases n <;> rfl
  rw [e]
  exact test_cold_axis_sound

theorem test_EveryStepKeepsTheAxesSound_met :
    State.reset.AxesSound ∧ step State.reset = .next (State.reset.advance 1) :=
  ⟨test_OneCoilAtMostAndOnlyInMotion_met, rfl⟩

theorem test_EveryStepKeepsTheProfileStoreSound_met :
    State.reset.AxesSound ∧ State.reset.StoreSound ∧ step State.reset = .next (State.reset.advance 1) := by
  have e : ∀ n, State.reset.axis n = Axis.cold := fun n => by fin_cases n <;> rfl
  have zero : (State.reset.table.get 0).state = .builtIn builtInShape := rfl
  have others : ∀ k, k ≠ 0 → (State.reset.table.get k).state = .empty := by decide
  refine ⟨test_OneCoilAtMostAndOnlyInMotion_met, ⟨by decide, by decide, fun k h => ?_, fun k h => ?_, ?_, ?_, ?_⟩, rfl⟩
  · by_cases hk : k = 0
    · rw [hk, zero]; simp [eq_comm]
    · simp [others k hk, hk]
  · by_cases hk : k = 0
    · rw [hk, zero, EntryState.shape]
      rintro ⟨⟩
      unfold Shape.inChoices
      decide
    · simp [others k hk, EntryState.shape]
  · exact fun n => by rw [e]; exact ⟨⟨_, rfl, by decide⟩, ⟨_, rfl, by decide⟩⟩
  · exact fun n g hg => by rw [e] at hg; simp [Axis.cold] at hg
  · exact fun n g hg => by rw [e] at hg; simp [Axis.cold] at hg

theorem test_EveryStepKeepsClaimsPortsAndNoticesSound_met :
    step State.reset = .next (State.reset.advance 1) ∧ State.reset.ClaimsSound ∧ State.reset.PortsSound ∧
      State.reset.NoticesSound ∧ State.reset.RoutingFollows := by
  refine ⟨rfl, fun n => ?_, fun p => ?_, fun p n => ?_, fun n => ?_⟩
  · fin_cases n <;> simp [ClaimEntry.Sound] <;> decide
  · cases p <;> simp [PortUnit.ErrorsSound] <;> decide
  · cases p <;> fin_cases n <;> simp [NoticeRecord.Sound] <;> decide
  · fin_cases n <;> rfl

end Sys2Proof.Tests
end

section
/-! What a command keeps of the axis controllers and of the profile table. All but nine commands keep the table and the
references that the axes make, and keep every axis sound. -/

namespace Sys2Proof.Machine

/-! ## References and soundness kept -/

/-- `b` makes the references that `a` makes; a segment that has joined names no profile. -/
structure Axis.SameRefs (a b : Axis) : Prop where
  config : b.config = a.config
  refs : ∀ k, queueRefs k b.segs = queueRefs k a.segs
  segs : ∀ g, g ∈ b.segs → g ∈ a.segs ∨ g.profile = none

theorem Axis.Kept.sameRefs {a b : Axis} (h : a.Kept b) : a.SameRefs b :=
  ⟨h.config, h.refs, fun g hg => .inl (h.segs g hg)⟩

/-- Mailboxes and postings are no field that soundness reads. -/
theorem Axis.like_mail (a : Axis) (posts : List Posting) (msgs : List AxisMsg) (reads : PerPort (Option AxisRead))
    (halts : List Bool) (restart : Bool) :
    a.Like { a with posts := posts, fromClaim := msgs, reads := reads, haltIn := halts, restartIn := restart } :=
  ⟨rfl, rfl, rfl, rfl, rfl, rfl, rfl, rfl, rfl, rfl, Iff.rfl, fun pl h => ⟨pl, h, rfl, rfl⟩⟩

theorem Axis.SameRefs.trans {a b c : Axis} (h : a.SameRefs b) (g : b.SameRefs c) : a.SameRefs c :=
  ⟨g.config.trans h.config, fun k => (g.refs k).trans (h.refs k),
    fun x hx => (g.segs x hx).elim (h.segs x) .inr⟩

theorem Axis.Like.sameRefs {a b : Axis} (h : a.Like b) : a.SameRefs b :=
  (Axis.Kept.of h.config h.waiting (by rw [h.slot])).sameRefs

/-- An axis that holds the configuration, the queue and the active segment of another makes its references. -/
theorem Axis.SameRefs.of {a b : Axis} (h1 : b.config = a.config) (h2 : b.waiting = a.waiting)
    (h3 : b.slot.map Active.seg = a.slot.map Active.seg) : a.SameRefs b :=
  (Axis.Kept.of h1 h2 h3).sameRefs

theorem Axis.SameRefs.run {a b : Axis} {table : Eight Entry} {ts : List Task} (h : a.SameRefs b) :
    a.SameRefs (Axis.run table ts b).1 :=
  h.trans (run_kept _ _ _).sameRefs

theorem Axis.SameRefs.begun {a b : Axis} {table : Eight Entry} (h : a.SameRefs b) : a.SameRefs (Axis.beginStep table b) :=
  h.trans (beginStep_kept _ _).sameRefs

/-- A free axis that takes something from a mailbox is ready for an event's tasks. -/
theorem Axis.Ok.core_mail {a : Axis} (o : a.Ok) (hb : a.busy = .none) {ts : List Task}
    {reads : PerPort (Option AxisRead)} {halt : Bool} {halts : List Bool} {restart : Bool} :
    ({ a with reads := reads, haltSeen := halt, haltIn := halts, restartIn := restart } : Axis).Core ts :=
  (o.core hb ts).congr rfl rfl rfl rfl rfl rfl rfl rfl rfl rfl rfl

theorem Axis.busy_of_free {a : Axis} (h : a.free = true) : a.busy = .none := by simpa [Axis.free] using h

/-- From `s` to `t` the profile table and the references that the axes make are kept, and so is their soundness. -/
structure State.Keeps (s t : State) : Prop where
  table : t.table = s.table
  refs : ∀ m, (s.axis m).SameRefs (t.axis m)
  sound : s.AxesSound → t.AxesSound

theorem State.Keeps.trans {s t u : State} (h : s.Keeps t) (g : t.Keeps u) : s.Keeps u :=
  ⟨g.table.trans h.table, fun m => (h.refs m).trans (g.refs m), fun o => g.sound (h.sound o)⟩

/-- `trans` with the later part first, which tells the state between the two. -/
theorem State.Keeps.after {s t u : State} (g : t.Keeps u) (h : s.Keeps t) : s.Keeps u := h.trans g

theorem State.Keeps.of_like {s t : State} (h : t.table = s.table) (hl : ∀ m, (s.axis m).Like (t.axis m)) : s.Keeps t :=
  ⟨h, fun m => (hl m).sameRefs, like_of hl⟩

section

variable (s : State) (n : AxisId) (p : Port)

theorem State.Keeps.refl : s.Keeps s := .of_like rfl fun _ => Axis.Like.refl _

variable {s} in
/-- What changes neither the store nor an axis controller keeps them. -/
theorem State.Keeps.of_same {t : State} (h1 : t.store = s.store) (h2 : t.axes = s.axes) : s.Keeps t :=
  .of_like (by rw [State.table, h1]; rfl) fun m => by
    rw [show t.axis m = s.axis m by rw [State.axis, h2]; rfl]; exact Axis.Like.refl _

variable {s} in
theorem State.SameButPorts.keeps {t : State} (h : s.SameButPorts t) : s.Keeps t := by
  refine .of_like ?_ (SameButPorts.like h)
  obtain ⟨b, hb⟩ := h.store
  rw [State.table, hb]
  rfl

theorem State.keeps_advance (d : Nat) : s.Keeps (s.advance d) :=
  .of_like rfl fun m => by rw [State.axis_advance]; exact Axis.advance_like _ d

variable {s n}

/-- Where one axis takes the place of another. -/
theorem State.keeps_finish {r : Axis × List Sent} (hr : (s.axis n).SameRefs r.1) (ho : (s.axis n).Ok → r.1.Ok) :
    s.Keeps (s.finish n r) := by
  refine ⟨State.finish_table .., fun m => ?_, fun o => finish_ok (ho (o n)) fun m _ => o m⟩
  rw [State.finish_axis]
  split
  · rename_i hm; rw [hm]; exact hr
  · exact (Axis.Like.refl _).sameRefs

theorem State.keeps_setAxis {a : Axis} (hr : (s.axis n).SameRefs a) (ho : (s.axis n).Ok → a.Ok) :
    s.Keeps (s.setAxis n a) :=
  State.keeps_finish (r := (a, [])) hr ho

/-- A list of tasks keeps what the axis that it starts from has kept. -/
theorem State.keeps_runAxis {a : Axis} {ts : List Task} (hr : (s.axis n).SameRefs a) (ho : (s.axis n).Ok → a.Core ts)
    (hte : tasksEnd ts = true) : s.Keeps (s.runAxis n a ts) :=
  State.keeps_finish hr.run fun o => run_ok _ _ _ (ho o) hte

/-- Tasks that follow the taking of what the claim unit has sent. -/
theorem State.keeps_taken {m : AxisMsg} {ts : List Task} (h : (s.axis n).offer = some m) (hte : tasksEnd ts = true) :
    s.Keeps (s.runAxis n (s.axis n).taken ts) :=
  State.keeps_runAxis (.of rfl rfl rfl) (fun o => offer_core o h ts) hte

theorem State.axisAnswers_keeps {m : AxisMsg} {r : Reply} (h : (s.axis n).offer = some m) :
    s.Keeps (s.axisAnswers n p r) :=
  State.keeps_taken h rfl

end

end Sys2Proof.Machine
end

section
/-! What each command that is no exchange with the profile store keeps. -/

namespace Sys2Proof.Machine

variable {s t : State} (n : AxisId) (p : Port)

/-! ## Ports -/

theorem execFrameStart_same (h : execFrameStart p s = .next t) : s.SameButPorts t := by
  cases h
  refine (s.settle_same p).trans ?_
  dsimp only
  split
  · exact State.SameButPorts.refl _
  · split <;> exact State.setPort_same ..

theorem execFrameByte_same (e : SckEdge) (h : execFrameByte p e s = .next t) : s.SameButPorts t := by
  cases h
  refine (s.settle_same p).trans ?_
  dsimp only
  split
  · exact State.SameButPorts.refl _
  · exact State.sckFalls_same ..
  · exact State.sckRises_same ..

theorem execFrameEnd_same (h : execFrameEnd p s = .next t) : s.SameButPorts t := by
  cases h
  refine (s.settle_same p).trans ?_
  dsimp only
  split
  · exact State.setPort_same ..
  · exact State.SameButPorts.refl _

theorem execReplyArrival_same (h : execReplyArrival p s = .next t) : s.SameButPorts t := by
  cases h
  refine (s.settle_same p).trans ?_
  dsimp only
  split
  · exact (State.setPort_same ..).trans (State.arrive_same ..)
  · exact State.SameButPorts.refl _

theorem execReadDevice_same (h : execReadDevice p s = .next t) : s.SameButPorts t := by
  cases h
  split
  · exact s.arrive_same p _
  · exact State.SameButPorts.refl _

theorem execReadPortStatus_same (h : execReadPortStatus p s = .next t) : s.SameButPorts t := by
  cases h
  split
  · exact (s.setPort_same p _).trans (State.arrive_same ..)
  · exact State.SameButPorts.refl _

theorem execClearPortErrors_same (h : execClearPortErrors p s = .next t) : s.SameButPorts t := by
  cases h
  split
  · exact (s.setPort_same p _).trans (State.arrive_same ..)
  · exact State.SameButPorts.refl _

theorem execStartAnswer_same (h : execStartAnswer p n s = .next t) : s.SameButPorts t := by
  cases h
  refine (s.settle_same p).trans ?_
  dsimp only
  split
  · exact (State.setPort_same ..).trans (State.collected_same ..)
  · exact State.SameButPorts.refl _

theorem execDetachAnswer_same (src : AnswerSource) (h : execDetachAnswer p src s = .next t) : s.SameButPorts t := by
  cases h
  refine (s.settle_same p).trans ?_
  dsimp only
  split
  · split
    · exact (State.setPort_same ..).trans (State.collected_same ..)
    · exact State.SameButPorts.refl _
  · split
    · exact (State.setPort_same ..).trans (State.collected_same ..)
    · exact State.SameButPorts.refl _
  · exact State.SameButPorts.refl _

theorem execPortHaltLevel_same (h : execPortHaltLevel p s = .next t) : s.SameButPorts t := by
  cases h
  refine (s.settle_same p).trans ?_
  dsimp only
  split
  · exact State.setPort_same ..
  · exact State.SameButPorts.refl _

/-! ## Start-up control and HALT -/

theorem execStartingEnd_keeps (h : execStartingEnd s = .next t) : s.Keeps t := by
  cases h
  split
  · exact .of_same rfl rfl
  · exact .refl s

/-- A change of the filtered HALT level reaches the axis controllers' mailboxes alone. -/
theorem State.takeHalt_keeps (s : State) : s.Keeps s.takeHalt := by
  refine .of_like rfl fun m => ?_
  rw [show s.takeHalt.axis m = { s.axis m with haltIn := (s.axis m).haltIn ++ [s.start.haltPin] } by
    simp [State.takeHalt, State.axis]]
  exact Axis.like_mail ..

theorem execHaltPin_keeps (asserted : Bool) (h : execHaltPin asserted s = .next t) : s.Keeps t := by
  cases h
  split
  · exact .refl s
  · have filtered : s.Keeps s.filterHalt := by
      unfold State.filterHalt
      split
      · exact s.takeHalt_keeps
      · exact .refl s
    exact filtered.trans (.of_same rfl rfl)

theorem execFilteredHaltChange_keeps (h : execFilteredHaltChange s = .next t) : s.Keeps t := by
  cases h
  split
  · exact (s.keeps_advance _).trans (State.takeHalt_keeps _)
  · exact .refl s

theorem execRestart_keeps (h : execRestart p s = .next t) : s.Keeps t := by
  cases h
  split
  · dsimp only
    split
    · exact .of_same rfl rfl
    · refine .of_like rfl fun m => ?_
      simp only [State.axis, Eight.get_map]
      exact Axis.like_mail ..
  · exact .refl s

theorem State.reachQuiet_keeps (s : State) : s.Keeps s.reachQuiet := by
  unfold State.reachQuiet
  split
  · exact .of_same rfl rfl
  · exact .refl s

theorem execQuietReport_keeps (src : QuietSource) (h : execQuietReport src s = .next t) : s.Keeps t := by
  cases h
  dsimp only
  split
  · split
    · exact (State.reachQuiet_keeps _).after (.of_same rfl rfl)
    · exact .refl s
  · split
    · exact (State.reachQuiet_keeps _).after (.of_same rfl rfl)
    · exact .refl s

theorem execRestartEnd_keeps (h : execRestartEnd s = .next t) : s.Keeps t := by
  cases h
  split
  · have settled := ((s.settle_same .a).trans (State.settle_same _ .b)).keeps
    refine settled.trans (.trans ?_ ((State.handHeld_same _ .a).trans (State.handHeld_same _ .b)).keeps)
    unfold State.replyRestart
    dsimp only
    split <;> exact .of_same rfl rfl
  · exact .refl s

/-! ## The claim unit -/

theorem State.sendAxis_keeps (s : State) (x : AxisMsg) : s.Keeps (s.sendAxis n x) := by
  refine .of_like rfl fun m => ?_
  rw [State.axis_sendAxis]
  exact Axis.like_mail ..

theorem State.sendAxes_keeps (s : State) (f : AxisId → Bool) (x : AxisMsg) : s.Keeps (s.sendAxes f x) := by
  refine .of_like rfl fun m => ?_
  rw [State.axis_sendAxes]
  exact Axis.like_mail ..

theorem execAuthorisation_keeps (h : execAuthorisation p s = .next t) : s.Keeps t := by
  cases h
  split
  · split
    · exact .of_same rfl rfl
    · split
      · exact (State.sendAxis_keeps ..).after (.of_same rfl rfl)
      · exact .of_same rfl rfl
  · exact .refl s

theorem execClaim_keeps (h : execClaim p s = .next t) : s.Keeps t := by
  cases h
  split
  · split
    · exact .of_same rfl rfl
    · split
      · exact .of_same rfl rfl
      · split <;> exact .of_same rfl rfl
  · exact .refl s

theorem execRelease_keeps (h : execRelease p s = .next t) : s.Keeps t := by
  cases h
  split
  · split
    · split
      · split
        · exact .of_same rfl rfl
        · exact (State.sendAxis_keeps ..).after (.of_same rfl rfl)
      · exact .of_same rfl rfl
    · exact .of_same rfl rfl
  · exact .refl s

theorem execKeep_keeps (h : execKeep p s = .next t) : s.Keeps t := by
  cases h
  split
  · exact .of_same rfl rfl
  · exact .refl s

theorem execSeize_keeps (h : execSeize p s = .next t) : s.Keeps t := by
  cases h
  split
  · split
    · split
      · split
        · exact .of_same rfl rfl
        · split
          · exact .of_same rfl rfl
          · split
            · exact .of_same rfl rfl
            · exact (State.sendAxis_keeps ..).after (.of_same rfl rfl)
      · exact .of_same rfl rfl
    · exact .of_same rfl rfl
  · exact .refl s

theorem execDetach_keeps (h : execDetach p s = .next t) : s.Keeps t := by
  cases h
  split
  · exact (State.setPort_same ..).keeps.after ((State.sendAxes_keeps ..).after (.of_same rfl rfl))
  · exact .refl s

theorem execGo_keeps (h : execGo p s = .next t) : s.Keeps t := by
  cases h
  split
  · refine (State.collected_same ..).keeps.after ?_
    exact (State.setPort_same ..).keeps.after ((State.sendAxes_keeps ..).after (.of_same rfl rfl))
  · exact .refl s

theorem execLeaseExpiry_keeps (h : execLeaseExpiry n s = .next t) : s.Keeps t := by
  cases h
  split
  · split
    · exact .refl s
    · exact (State.sendAxis_keeps ..).after ((s.keeps_advance _).trans (.of_same rfl rfl))
  · exact .refl s

theorem execClaimRestartStep_keeps (h : execClaimRestartStep s = .next t) : s.Keeps t := by
  cases h
  split
  · dsimp only
    split <;> exact .of_same rfl rfl
  · exact .refl s

theorem execReportAnswer_keeps (h : execReportAnswer s = .next t) : s.Keeps t := by
  cases h
  split
  · exact .refl s
  · dsimp only
    split <;> exact .of_same rfl rfl

/-! ## The notice unit, and READ_PROFILE -/

theorem execNoticePosting_keeps (src : PostSource) (h : execNoticePosting src s = .next t) : s.Keeps t := by
  cases h
  dsimp only
  split
  · split
    · rename_i n _ x rest _
      have like : (s.axis n).Like { s.axis n with posts := rest } := Axis.like_mail ..
      exact (State.keeps_setAxis (s := s) like.sameRefs like.ok).trans (.of_same rfl rfl)
    · exact .refl s
  · split
    · exact .of_same rfl rfl
    · exact .refl s

theorem execOwnerChangeReport_keeps (h : execOwnerChangeReport s = .next t) : s.Keeps t := by
  cases h
  split
  · exact .of_same rfl rfl
  · exact .refl s

theorem execDetachClear_keeps (h : execDetachClear s = .next t) : s.Keeps t := by
  cases h
  split
  · exact .of_same rfl rfl
  · exact .refl s

theorem execRestartClear_keeps (h : execRestartClear s = .next t) : s.Keeps t := by
  cases h
  split
  · exact .of_same rfl rfl
  · exact .refl s

theorem execReadNotices_keeps (h : execReadNotices p s = .next t) : s.Keeps t := by
  cases h
  split
  · split <;> exact .of_same rfl rfl
  · exact .refl s

theorem execAckNotices_keeps (h : execAckNotices p s = .next t) : s.Keeps t := by
  cases h
  split
  · split <;> exact .of_same rfl rfl
  · exact .refl s

theorem execSetNoticeMask_keeps (h : execSetNoticeMask p s = .next t) : s.Keeps t := by
  cases h
  split
  · exact .of_same rfl rfl
  · exact .refl s

theorem execSetWatch_keeps (h : execSetWatch p s = .next t) : s.Keeps t := by
  cases h
  split
  · exact .of_same rfl rfl
  · exact .refl s

/-- A reply of the store keeps the table and the axes. -/
theorem State.storeReply_keeps (s : State) (r : Reply) : s.Keeps (s.storeReply p r) :=
  .of_like rfl fun _ => Axis.Like.refl _

theorem execReadProfile_keeps (h : execReadProfile p s = .next t) : s.Keeps t := by
  cases h
  split
  · split <;> exact s.storeReply_keeps p _
  · exact .refl s

end Sys2Proof.Machine
end

section
/-! What each event of an axis controller that ends no exchange keeps. -/

namespace Sys2Proof.Machine

variable {s t : State} (n : AxisId) (p : Port)

/-! ## Requests, starts and actions -/

theorem execDisable_keeps (h : execDisable n s = .next t) : s.Keeps t := by
  cases h
  split
  · rename_i ho
    split
    · exact State.axisAnswers_keeps _ ho
    · exact State.keeps_taken ho rfl
    · exact State.keeps_taken ho rfl
    · exact State.axisAnswers_keeps _ ho
  · exact .refl s

theorem execClearFault_keeps (h : execClearFault n s = .next t) : s.Keeps t := by
  cases h
  split
  · rename_i ho
    split
    · exact State.axisAnswers_keeps _ ho
    · exact State.keeps_taken ho rfl
    · exact State.axisAnswers_keeps _ ho
  · exact .refl s

theorem execCancel_keeps (h : execCancel n s = .next t) : s.Keeps t := by
  cases h
  split
  · rename_i ho
    exact State.keeps_taken ho rfl
  · exact .refl s

theorem execSkip_keeps (h : execSkip n s = .next t) : s.Keeps t := by
  cases h
  split
  · rename_i q ho
    have now : s.Keeps (s.skipNow n q) := State.keeps_taken ho rfl
    split
    · exact State.axisAnswers_keeps _ ho
    · exact State.axisAnswers_keeps _ ho
    · exact State.axisAnswers_keeps _ ho
    · exact State.axisAnswers_keeps _ ho
    · split
      · exact now
      · rename_i pl hpl
        split
        · rename_i he
          refine State.keeps_runAxis (.of rfl rfl rfl) (fun o => ?_) rfl
          have c := offer_core o ho [.send (.reply q (replyOk []))]
          refine { c with
            pulse := fun pl' hpl' => ?_
            stopping := fun hst => (c.stopping hst).imp (fun _ => by simp) id }
          obtain ⟨hst, hact⟩ := c.pulse pl hpl
          cases hpl'
          exact ⟨by rw [he] at hst; exact hst, hact⟩
        · exact State.axisAnswers_keeps _ ho
    · exact now
    · exact now
  · exact .refl s

theorem execStop_keeps (h : execStop n s = .next t) : s.Keeps t := by
  cases h
  split
  · rename_i ho
    exact State.keeps_taken ho (tasksEnd_tail (stopTasks_end _) rfl)
  · exact .refl s

theorem execReleaseAction_keeps (h : execReleaseAction n s = .next t) : s.Keeps t := by
  cases h
  split
  · rename_i park ho
    refine State.keeps_taken ho (tasksEnd_tail ?_ rfl)
    split
    · exact parkTasks_end _
    · exact stopTasks_end _
  · exact .refl s

theorem execSeizeAction_keeps (h : execSeizeAction n s = .next t) : s.Keeps t := by
  cases h
  split
  · rename_i ho
    exact State.keeps_taken ho (tasksEnd_tail (stopTasks_end _) rfl)
  · exact .refl s

theorem execDetachAction_keeps (h : execDetachAction n s = .next t) : s.Keeps t := by
  cases h
  split
  · rename_i ho
    exact State.keeps_taken ho (tasksEnd_tail (lapseTasks_end _) rfl)
  · exact .refl s

theorem execLapseAction_keeps (h : execLapseAction n s = .next t) : s.Keeps t := by
  cases h
  split
  · rename_i ho
    exact State.keeps_taken ho (lapseTasks_end _)
  · exact .refl s

theorem execAxisRestartStep_keeps (h : execAxisRestartStep n s = .next t) : s.Keeps t := by
  cases h
  split
  · rename_i hf
    simp only [Bool.and_eq_true] at hf
    exact State.keeps_runAxis (.of rfl rfl rfl) (fun o => o.core_mail (Axis.busy_of_free hf.1.1)) (restartTasks_end _)
  · exact .refl s

/-- An OFF axis that enters IDLE stays ready (R15). -/
theorem Axis.Core.enable {a : Axis} {ts ts' : List Task} (h : a.Core ts) (hs : a.state = .off) :
    ({ a with state := .idle } : Axis).Core ts' := by
  have hf : a.faultKind = none := h.fault.2 (by simp [hs])
  exact (h.rest (h.empty (by simp [hs, AxisState.active])) rfl (by simp [hf]) (by simp))

theorem execEnable_keeps (h : execEnable n s = .next t) : s.Keeps t := by
  cases h
  split
  · rename_i ho
    split
    · rename_i hs
      exact State.keeps_runAxis (.of rfl rfl rfl) (fun o => (offer_core o ho []).enable hs) rfl
    · exact State.axisAnswers_keeps _ ho
  · exact .refl s

/-- In OFF and IDLE the slot of an axis is empty (R13). -/
theorem Axis.Core.slot_of_rest {a : Axis} {ts : List Task} (h : a.Core ts) (hs : a.state = .off ∨ a.state = .idle) :
    a.slot = none :=
  h.empty (by rcases hs with x | x <;> simp [x, AxisState.active])

theorem execSetPosition_keeps (h : execSetPosition n s = .next t) : s.Keeps t := by
  cases h
  split
  · rename_i q value ho
    split
    · rename_i hs
      split
      · rename_i hw
        refine State.keeps_runAxis (.of rfl rfl rfl) (fun o => ?_) rfl
        have c := offer_core o ho [.send (.reply q (replyOk []))]
        have hslot : (s.axis n).slot = none := c.slot_of_rest hs
        exact { c with known := fun _ => hw, path := fun act ha => by simp [hslot] at ha }
      · exact State.axisAnswers_keeps _ ho
    · exact State.axisAnswers_keeps _ ho
  · exact .refl s

/-- What the argument checks of CONFIGURE let pass, with the positions inside the limits, is valid (R18, R19). -/
theorem configOf_valid {args : ConfigureArgs} {c : AxisConfig} {x : Word16} {v : Bool} (h : configOf args = some c)
    (hp : positionsWithin c x v = true) : c.Valid ∧ (v = true → within c x = true) := by
  unfold configOf at h
  split at h
  · cases h
  · rename_i hlim
    split at h
    · cases h
      simp only [positionsWithin, Bool.and_eq_true, Bool.or_eq_true, Bool.not_eq_true'] at hp
      obtain ⟨⟨hh, hk⟩, hx⟩ := hp
      exact ⟨⟨by dsimp only; omega, hh, hk, by dsimp only; omega⟩, fun hv => hx.resolve_left (by simp [hv])⟩
    · cases h

theorem execConfigure_keeps (h : execConfigure n s = .next t) : s.Keeps t := by
  cases h
  split
  · rename_i ho
    split
    · rename_i hs
      split
      · exact State.axisAnswers_keeps _ ho
      · rename_i c hc
        split
        · rename_i hp
          obtain ⟨hv, hk⟩ := configOf_valid hc hp
          refine State.keeps_setAxis (.of rfl rfl rfl) fun o => ?_
          have core := offer_core o ho []
          exact core.plain (by simp) (by simp) (by simp) (by
            rintro q d ⟨⟩
            exact ⟨hv, core.slot_of_rest hs, hk⟩)
        · exact State.axisAnswers_keeps _ ho
    · exact State.axisAnswers_keeps _ ho
  · exact .refl s

/-! ## Holds -/

theorem holdChanged_sameRefs (table : Eight Entry) (a : Axis) : a.SameRefs (Axis.holdChanged table a) := by
  unfold Axis.holdChanged
  split
  · split <;> exact .of rfl rfl rfl
  · split
    · exact .begun (.of rfl rfl rfl)
    · exact .of rfl rfl rfl

/-- PAUSE and RESUME outside OFF write pause_flag, and the hold takes effect (R70, R71). -/
theorem State.setPause_keeps {m : AxisMsg} {b : Bool} (ho : (s.axis n).offer = some m) (hs : (s.axis n).state ≠ .off)
    (x : Sent) :
    s.Keeps (s.runAxis n (Axis.holdChanged s.table { (s.axis n).taken with pauseFlag := b }) [.send x]) := by
  refine State.keeps_runAxis (.trans (b := { (s.axis n).taken with pauseFlag := b }) (.of rfl rfl rfl)
    (holdChanged_sameRefs _ _)) (fun o => ?_) rfl
  exact (holdChanged_core _ (setPause_core (offer_core o ho []) b hs)).any _

theorem execPause_keeps (h : execPause n s = .next t) : s.Keeps t := by
  cases h
  split
  · rename_i ho
    split
    · exact State.axisAnswers_keeps _ ho
    · rename_i hs
      exact State.setPause_keeps n ho hs _
  · exact .refl s

theorem execResume_keeps (h : execResume n s = .next t) : s.Keeps t := by
  cases h
  split
  · rename_i ho
    split
    · exact State.axisAnswers_keeps _ ho
    · rename_i hs
      exact State.setPause_keeps n ho hs _
  · exact .refl s

theorem execAxisHaltChange_keeps (h : execAxisHaltChange n s = .next t) : s.Keeps t := by
  cases h
  split
  · rename_i level rest hf hh
    refine State.keeps_setAxis (.trans (b := { s.axis n with haltSeen := level, haltIn := rest }) (.of rfl rfl rfl)
      (holdChanged_sameRefs _ _)) fun o => (holdChanged_core _ ?_).shaped
    exact o.core_mail (Axis.busy_of_free hf)
  · exact .refl s

/-- An ARMED axis that is started stays ready (R117). -/
theorem Axis.Core.start {a : Axis} (h : a.Core []) (hs : a.state = .armed) {st : AxisState}
    (hst : st = .held ∨ st = .running) : ({ a with state := st } : Axis).Core [] := by
  have hp : a.pulse = none := by
    cases hpu : a.pulse with
    | none => rfl
    | some pl =>
      have := (h.pulse pl hpu).1
      rw [hs] at this
      cases he : pl.endAction <;> simp [he, EndAction.runsIn] at this
  have hf : a.faultKind = none := h.fault.2 (by simp [hs])
  have hfull := h.full (by simp [hs, AxisState.active])
  refine { h with
    empty := fun x => ?_, full := fun _ => hfull, pulse := by simp [hp], stopping := fun x => ?_, fault := ?_
    off := fun x => ?_ }
  all_goals rcases hst with y | y <;> simp_all [AxisState.active]

theorem execStart_keeps (h : execStart n s = .next t) : s.Keeps t := by
  cases h
  split
  · rename_i ho
    split
    · rename_i hs
      refine State.keeps_runAxis (.begun (.of rfl rfl rfl))
        (fun o => (beginStep_core _ ((offer_core o ho []).start hs ?_)).any _) rfl
      split
      · exact .inl rfl
      · exact .inr rfl
    · exact State.keeps_taken ho rfl
  · exact .refl s

/-! ## Reads -/

theorem execReadQueue_keeps (h : execReadQueue n p s = .next t) : s.Keeps t := by
  cases h
  split
  · rename_i hf hr
    exact State.keeps_runAxis (.of rfl rfl rfl) (fun o => o.core_mail (Axis.busy_of_free hf)) rfl
  · exact .refl s

theorem execReadAxis_keeps (h : execReadAxis n p s = .next t) : s.Keeps t := by
  cases h
  split
  · rename_i hf hr
    refine State.keeps_setAxis (.of rfl rfl rfl) fun o => ?_
    have core : Axis.Core { s.axis n with reads := (s.axis n).reads.set p none } [] :=
      o.core_mail (Axis.busy_of_free hf)
    exact core.plain (by simp) (by simp) (by simp) (by simp)
  · rename_i hf hr
    exact State.keeps_runAxis (.of rfl rfl rfl) (fun o => o.core_mail (Axis.busy_of_free hf)) rfl
  · exact .refl s

theorem execClaimAsk_keeps (h : execClaimAsk n s = .next t) : s.Keeps t := by
  cases h
  split
  · rename_i hb
    refine State.keeps_setAxis (.of rfl rfl rfl) fun o => ?_
    exact (o.coreOf (by simp [hb]) []).plain (by simp) (by simp) (by simp) (by simp)
  · exact .refl s

theorem execClaimAnswer_keeps (h : execClaimAnswer n s = .next t) : s.Keeps t := by
  cases h
  split
  · rename_i hb
    exact State.keeps_runAxis (.of rfl rfl rfl) (fun o => o.coreOf (by simp [hb]) _) rfl
  · exact .refl s

/-! ## Steps and pulses -/

theorem stepCounts_sameRefs (a : Axis) (pl : Pulse) : a.SameRefs (a.stepCounts pl) := by
  unfold Axis.stepCounts
  split
  · rename_i act hs
    dsimp only
    split <;> exact .of rfl rfl (by rw [hs]; rfl)
  · exact .of rfl rfl rfl

theorem afterPulse_sameRefs (a : Axis) (action : EndAction) : a.SameRefs (a.afterPulse action).1 := by
  unfold Axis.afterPulse
  repeat' split
  all_goals exact .of rfl rfl rfl

theorem pulseEnd_sameRefs (table : Eight Entry) (a : Axis) (pl : Pulse) (w : Bool) :
    a.SameRefs (Axis.pulseEnd table a pl w).1 :=
  .run ((stepCounts_sameRefs a pl).trans (afterPulse_sameRefs _ _))

theorem periodEnd_sameRefs (table : Eight Entry) (a : Axis) : a.SameRefs (Axis.periodEnd table a).1 := by
  unfold Axis.periodEnd
  split
  · rename_i act _ hs
    dsimp only
    split <;> exact .run (.of rfl rfl (by rw [hs]; rfl))
  · exact .run (.of rfl rfl rfl)

theorem overcurrent_sameRefs (table : Eight Entry) (a : Axis) (pl : Pulse) :
    a.SameRefs (Axis.overcurrent table a pl).1 := by
  unfold Axis.overcurrent
  dsimp only
  split
  · exact .run (.of rfl rfl rfl)
  · split <;> exact .run (.of rfl rfl rfl)

/-- A pulse that has run on is the same pulse, further on; the soundness of the axis whose pulse ends is that of one
whose pulse has not moved. -/
theorem pulseEnd_advance_ok (table : Eight Entry) {a : Axis} {pl : Pulse} {d : Nat} {w : Bool} (h : a.Ok)
    (hb : a.busy = .none) (hp : a.pulse = some pl) : (Axis.pulseEnd table (a.advance d) pl w).1.Ok := by
  have core : Axis.Core { a.advance d with pulse := some pl } [] :=
    (h.core hb []).congr rfl rfl rfl rfl rfl rfl rfl rfl hp.symm rfl rfl
  have same : ({ a.advance d with pulse := some pl } : Axis).stepCounts pl = (a.advance d).stepCounts pl := rfl
  have := pulseEnd_ok table (w := w) core rfl
  simpa only [Axis.pulseEnd, same] using this

theorem State.endPulse_keeps {pl : Pulse} (hf : (s.axis n).free = true) (hp : (s.axis n).pulse = some pl) :
    s.Keeps (s.endPulse n pl) := by
  unfold State.endPulse
  have later : s.Keeps (s.advance pl.timeLeft) := s.keeps_advance _
  refine ⟨(State.finish_table ..).trans later.table, fun m => ?_, fun o => finish_ok ?_ fun m _ => later.sound o m⟩
  · rw [State.finish_axis]
    split
    · rename_i hm
      rw [hm]
      exact (later.refs n).trans (pulseEnd_sameRefs _ _ _ _)
    · exact later.refs m
  · rw [State.axis_advance]
    exact pulseEnd_advance_ok _ (o n) (Axis.busy_of_free hf) hp

theorem execPulseEnd_keeps (h : execPulseEnd n s = .next t) : s.Keeps t := by
  cases h
  split
  · rename_i pl hp
    split
    · rename_i hr
      simp only [Axis.pulseRuns, Bool.and_eq_true] at hr
      exact State.endPulse_keeps n hr.1 hp
    · exact .refl s
  · exact .refl s

theorem execPeriodExpiry_keeps (h : execPeriodExpiry n s = .next t) : s.Keeps t := by
  cases h
  split
  · exact .refl s
  · rename_i hf
    simp only [not_or, Bool.not_eq_false] at hf
    dsimp only
    split
    · rename_i pl hp _
      split
      · exact State.endPulse_keeps n hf.1 hp
      · exact .refl s
    · refine State.Keeps.after (State.keeps_finish (periodEnd_sameRefs _ _) fun o => periodEnd_ok _ (o.core ?_ []))
        (s.keeps_advance _)
      rw [State.axis_advance]
      exact Axis.busy_of_free hf.1

theorem detect_like (table : Eight Entry) (a : Axis) : a.Like (a.detect table) := by
  unfold Axis.detect
  split <;>
    exact ⟨rfl, rfl, rfl, rfl, rfl, rfl, rfl, rfl, rfl, rfl, Iff.rfl, fun pl h => ⟨pl, h, rfl, rfl⟩⟩

theorem execOvercurrent_keeps (h : execOvercurrent n s = .next t) : s.Keeps t := by
  cases h
  dsimp only
  have like := detect_like s.table (s.axis n)
  split
  · rename_i pl hp
    split
    · rename_i hf
      simp only [Bool.and_eq_true] at hf
      exact State.keeps_finish (like.sameRefs.trans (overcurrent_sameRefs _ _ _)) fun o =>
        overcurrent_ok _ ((like.ok o).core (Axis.busy_of_free hf.1) []) hp
    · exact State.keeps_setAxis like.sameRefs like.ok
  · exact .refl s

/-! ## QUEUE -/

/-- A DWELL that joins the queue makes no reference. -/
theorem Axis.SameRefs.join {a b : Axis} {g : Segment} (h1 : b.config = a.config) (h2 : b.waiting = a.waiting ++ [g])
    (h3 : b.slot = a.slot) (hg : g.isDwell = true) : a.SameRefs b := by
  have hp := dwellProfile hg
  refine ⟨h1, fun k => ?_, fun x hx => ?_⟩
  · simp [Axis.segs, h2, h3, queueRefs_append, queueRefs_cons, refs_none hp]
  · simp only [Axis.segs, h2, h3, List.mem_append, List.mem_singleton] at hx ⊢
    rcases hx with (hx | rfl) | hx
    · exact .inl (.inl hx)
    · exact .inr hp
    · exact .inl (.inr hx)

/-- What QUEUE's arguments describe is no PARK segment (R32). -/
theorem segmentOf_noPark {c : AxisConfig} {q : QueueArgs} {g : Segment} (h : segmentOf c q = some g) :
    g.isPark = false := by
  unfold segmentOf at h
  split at h
  · split at h
    · rename_i job hj
      cases h
      unfold jobOf at hj
      split at hj
      · split at hj <;> cases hj; rfl
      · cases hj; rfl
      · cases hj; rfl
      · split at hj <;> cases hj; rfl
      · cases hj
    · cases h
  · cases h

/-- An axis that is not OFF stays ready where a segment joins its queue and finds room (R32). -/
theorem Axis.Core.join {a : Axis} {ts : List Task} {g : Segment} (h : a.Core ts) (hr : a.waiting.length < Config.queueDepth)
    (hg : g.isPark = false) (ho : a.state ≠ .off) : ({ a with waiting := a.waiting ++ [g] } : Axis).Core ts := by
  refine h.setWaiting (by simpa using hr) (fun x hx => ?_) (fun x => absurd x ho)
  rcases List.mem_append.mp hx with y | y
  · exact h.noPark x y
  · rw [List.mem_singleton.mp y]; exact hg

theorem execQueue_keeps (h : execQueue n s = .next t) : s.Keeps t := by
  cases h
  split
  · rename_i q args ho
    split
    · exact State.axisAnswers_keeps _ ho
    · exact State.axisAnswers_keeps _ ho
    · rename_i hoff hfaulted
      split
      · exact State.axisAnswers_keeps _ ho
      · rename_i g hg
        have hpk := segmentOf_noPark hg
        split
        · exact State.axisAnswers_keeps _ ho
        · rename_i hroom
          split
          · rename_i hd
            exact State.keeps_runAxis (.join rfl rfl rfl hd) (fun o =>
              (offer_core o ho _).join (Nat.lt_of_not_le hroom) hpk hoff) rfl
          · refine State.keeps_setAxis (.of rfl rfl rfl) fun o => ?_
            refine (offer_core o ho []).plain (by simp) (by simp) ?_ (by simp)
            rintro q' g' ⟨⟩
            exact ⟨Nat.lt_of_not_le hroom, hpk, hoff, hfaulted⟩
  · exact .refl s

end Sys2Proof.Machine
end

section
/-! The exchanges of an axis controller with the profile store keep the counts and the axes sound. -/

namespace Sys2Proof.Machine

/-! ## References counted over the axes -/

variable {s t u : State} {n : AxisId}

theorem State.refs_eq_sum (s : State) (k : ProfileId) : s.refs k = ∑ m : AxisId, (s.axis m).refs k := by
  simp [State.refs, allEight, Fin.sum_univ_eight, Nat.add_assoc]

/-- Where one axis alone differs, the sums of the references differ by what it makes. -/
theorem State.refs_of_others (h : ∀ m, m ≠ n → t.axis m = s.axis m) (k : ProfileId) :
    t.refs k + (s.axis n).refs k = s.refs k + (t.axis n).refs k := by
  have others : ∑ m ∈ Finset.univ.erase n, (t.axis m).refs k = ∑ m ∈ Finset.univ.erase n, (s.axis m).refs k :=
    Finset.sum_congr rfl fun m hm => by rw [h m (Finset.ne_of_mem_erase hm)]
  rw [State.refs_eq_sum, State.refs_eq_sum, ← Finset.add_sum_erase _ _ (Finset.mem_univ n), others,
    ← Finset.add_sum_erase (a := n) _ (fun m => (s.axis m).refs k) (Finset.mem_univ n)]
  omega

theorem State.axis_refs_le (s : State) (n : AxisId) (k : ProfileId) : (s.axis n).refs k ≤ s.refs k := by
  rw [State.refs_eq_sum]
  exact Finset.single_le_sum (f := fun m => (s.axis m).refs k) (fun _ _ => Nat.zero_le _) (Finset.mem_univ n)

/-- The segments of an axis fit the table. -/
theorem State.StoreSound.segs (o : s.StoreSound) {g : Segment} (hg : g ∈ (s.axis n).segs) : g.FitsIn s.table := by
  rcases List.mem_append.mp hg with h | h
  · exact o.waiting n g h
  · cases hs : (s.axis n).slot with
    | none => simp [hs] at h
    | some act =>
      rw [hs, Option.map_some, Option.toList_some, List.mem_singleton] at h
      rw [h]
      exact o.active n act hs

/-- What fits a table fits any table with the same contents. -/
theorem FitsIn.contents {table table' : Eight Entry} (hc : SameContents table' table) {k : ProfileId} {r : RateCode}
    (h : FitsIn table k r) : FitsIn table' k r := by
  obtain ⟨x, hx, hr⟩ := h
  exact ⟨x, by rw [hc k]; exact hx, hr⟩

theorem Segment.FitsIn.contents {table table' : Eight Entry} (hc : SameContents table' table) {g : Segment}
    (h : g.FitsIn table) : g.FitsIn table' := fun k hk hr => (h k hk hr).contents hc

/-- The parts of the store's soundness that speak of an axis, from its configuration and its segments. -/
theorem State.StoreSound.of_segs (counted : ∀ k, (t.table.get k).refCount = t.refs k)
    (inUse : ∀ k, 0 < (t.table.get k).refCount → (t.table.get k).state ≠ .empty)
    (builtIn : ∀ k h, (t.table.get k).state = .builtIn h ↔ k = 0 ∧ h = builtInShape)
    (choices : ∀ k h, (t.table.get k).state.shape = some h → h.inChoices)
    (pairs : ∀ m, Machine.FitsIn t.table (t.axis m).config.defaultProfile (t.axis m).config.defaultRate ∧
      Machine.FitsIn t.table (t.axis m).config.parkProfile (t.axis m).config.parkRate)
    (segs : ∀ m g, g ∈ (t.axis m).segs → g.FitsIn t.table) : t.StoreSound where
  counted := counted
  inUse := inUse
  builtIn := builtIn
  choices := choices
  pairs := pairs
  waiting m g hg := segs m g (List.mem_append.mpr (.inl hg))
  active m act ha := segs m act.seg (List.mem_append.mpr (.inr (by simp [ha])))

/-- Where the references and the table are kept, the store stays sound. -/
theorem State.Keeps.storeSound (h : s.Keeps t) (o : s.StoreSound) : t.StoreSound := by
  have refs : ∀ k, t.refs k = s.refs k := fun k => by
    rw [State.refs_eq_sum, State.refs_eq_sum]
    exact Finset.sum_congr rfl fun m _ => by rw [axis_refs, axis_refs, (h.refs m).config, (h.refs m).refs]
  refine .of_segs ?_ ?_ ?_ ?_ (fun m => ?_) fun m g hg => ?_ <;> rw [h.table]
  · exact fun k => (o.counted k).trans (refs k).symm
  · exact o.inUse
  · exact o.builtIn
  · exact o.choices
  · rw [(h.refs m).config]; exact o.pairs m
  · rcases (h.refs m).segs g hg with hs | hp
    · exact o.segs hs
    · intro k hk; rw [hp] at hk; cases hk

/-- An exchange: the store has counted what axis `n` gives and takes, the axis has become `a`, and its event goes on. -/
theorem State.StoreSound.finish {r : Axis × List Sent} {a : Axis} (o : s.StoreSound) (axes : u.axes = s.axes)
    (contents : SameContents u.table s.table)
    (counts : ∀ k, (u.table.get k).refCount + (s.axis n).refs k = (s.table.get k).refCount + a.refs k)
    (fresh : ∀ k, (s.axis n).refs k < a.refs k → (s.table.get k).state ≠ .empty)
    (pairs : Machine.FitsIn s.table a.config.defaultProfile a.config.defaultRate ∧
      Machine.FitsIn s.table a.config.parkProfile a.config.parkRate)
    (segs : ∀ g, g ∈ a.segs → g.FitsIn s.table) (kept : a.Kept r.1) : (u.finish n r).StoreSound := by
  have same : ∀ m, u.axis m = s.axis m := fun m => by rw [State.axis, axes]; rfl
  have here : (u.finish n r).axis n = r.1 := by rw [State.finish_axis, if_pos rfl]
  have others : ∀ m, m ≠ n → (u.finish n r).axis m = s.axis m := fun m hm => by
    rw [State.finish_axis, if_neg hm, same]
  have refs : ∀ k, (u.finish n r).refs k + (s.axis n).refs k = s.refs k + a.refs k := fun k => by
    rw [State.refs_of_others others, here, axis_refs k r.1, axis_refs k a, kept.config, kept.refs]
  have le := fun k => s.axis_refs_le n k
  refine .of_segs ?_ ?_ ?_ ?_ (fun m => ?_) fun m g hg => ?_ <;> rw [State.finish_table]
  · intro k
    have := refs k; have := counts k; have := o.counted k; have := le k
    omega
  · intro k hk
    rw [contents k]
    by_cases hf : (s.axis n).refs k < a.refs k
    · exact fresh k hf
    · have := counts k
      exact o.inUse k (by omega)
  · exact fun k h => by rw [contents k]; exact o.builtIn k h
  · exact fun k h => by rw [contents k]; exact o.choices k h
  · by_cases hm : m = n
    · rw [hm, here, kept.config]
      exact ⟨pairs.1.contents contents, pairs.2.contents contents⟩
    · rw [others m hm]
      exact ⟨(o.pairs m).1.contents contents, (o.pairs m).2.contents contents⟩
  · refine Segment.FitsIn.contents contents ?_
    by_cases hm : m = n
    · rw [hm, here] at hg
      exact segs g (kept.segs g hg)
    · rw [others m hm] at hg
      exact o.segs hg

/-! ## Counts after a take or a give -/

theorem State.takeRef_refCount (s : State) (k j : ProfileId) :
    ((s.takeRef k).table.get j).refCount = (s.table.get j).refCount + if k = j then 1 else 0 := by
  rw [State.takeRef, State.table_setTable]
  by_cases h : j = k
  · simp [h, Entry.raise]
  · simp [h, Ne.symm h]

theorem State.giveRef_refCount (s : State) (k j : ProfileId) :
    ((s.giveRef k).table.get j).refCount = (s.table.get j).refCount - if k = j then 1 else 0 := by
  rw [State.giveRef, State.table_setTable]
  by_cases h : j = k
  · simp [h, Entry.lower]
  · simp [h, Ne.symm h]

theorem sameContents_giveRef (s : State) (k : ProfileId) : SameContents (s.giveRef k).table s.table := by
  intro j
  simp only [State.giveRef, State.table_setTable]
  by_cases h : j = k
  · subst h; simp [Entry.lower]
  · simp [h]

theorem SameContents.trans {x y z : Eight Entry} (h : SameContents x y) (g : SameContents y z) : SameContents x z :=
  fun k => (h k).trans (g k)

theorem EntryState.shape_ne_empty {e : EntryState} {h : Shape} (hs : e.shape = some h) : e ≠ .empty := by
  rintro rfl
  cases hs

/-! ## A refused exchange -/

/-- An axis controller that has waited for an answer of the store, and gives nothing back, ends its event with a reply. -/
theorem State.keeps_refused (hb : ∀ w ts, (s.axis n).busy ≠ .give w ts) (x : Sent) :
    s.Keeps (s.runAxis n { s.axis n with busy := .none } [.send x]) :=
  State.keeps_runAxis (.of rfl rfl rfl) (fun o => o.coreOf hb _) rfl

/-! ## GIVE -/

theorem execGive_axesSound (h : execGive n s = .next t) (o : s.AxesSound) : t.AxesSound := by
  cases h
  split
  · rename_i what rest hb
    obtain ⟨core, hte⟩ := left_core (o n) hb
    dsimp only
    split
    · split <;> exact runAxis_ok core hte o
    · exact runAxis_ok core hte o
  · exact o

/-- What leaves takes its reference with it (R31). -/
theorem left_refs (a : Axis) (what : Leaving) (k : ProfileId) :
    (a.left what).refs k + (a.leaver what).elim 0 (Segment.refs k) = a.refs k := by
  obtain ⟨hc, -, hrefs⟩ := left_segs a what
  rw [axis_refs, axis_refs, hc, ← hrefs k]
  cases a.leaver what <;> simp [Nat.add_assoc]

theorem execGive_storeSound (h : execGive n s = .next t) (o : s.StoreSound) : t.StoreSound := by
  cases h
  split
  · rename_i what rest hb
    obtain ⟨hc, hsegs, -⟩ := left_segs { s.axis n with busy := .none } what
    have hrefs : ∀ k, (({ s.axis n with busy := .none } : Axis).left what).refs k +
        ((s.axis n).leaver what).elim 0 (Segment.refs k) = (s.axis n).refs k := fun k => by
      have := left_refs { s.axis n with busy := .none } what k
      cases what <;> exact this
    -- what the store has counted besides decides the new state of the table
    have goes : ∀ u : State, u.axes = s.axes → SameContents u.table s.table →
        (∀ k, (u.table.get k).refCount = (s.table.get k).refCount - ((s.axis n).leaver what).elim 0 (Segment.refs k)) →
        (u.runAxis n (({ s.axis n with busy := .none } : Axis).left what) rest).StoreSound := by
      intro u axes contents counts
      refine o.finish axes contents (fun k => ?_) (fun k hk => ?_) ?_ (fun g hg => o.segs (n := n) (hsegs g hg))
        (run_kept _ _ _)
      · have := hrefs k; have := s.axis_refs_le n k; have := o.counted k; have := counts k
        omega
      · have := hrefs k
        omega
      · rw [hc]; exact o.pairs n
    dsimp only
    split
    · rename_i g hg
      split
      · rename_i k hk
        refine goes _ rfl (sameContents_giveRef s k) fun j => ?_
        rw [State.giveRef_refCount, hg, Option.elim_some, Segment.refs, hk]
        simp
      · rename_i hk
        exact goes s rfl (fun _ => rfl) fun j => by rw [hg, Option.elim_some, refs_none hk, Nat.sub_zero]
    · rename_i hg
      exact goes s rfl (fun _ => rfl) fun j => by rw [hg, Option.elim_none, Nat.sub_zero]
  · exact o

/-! ## ADMISSION_TAKE -/

theorem execAdmissionTake_axesSound (h : execAdmissionTake n s = .next t) (o : s.AxesSound) : t.AxesSound := by
  cases h
  split
  · rename_i p g hb
    obtain ⟨hroom, hpk, hoff, -⟩ := (o n).1.admitting p g hb
    split
    · split
      · exact runAxis_ok ((Axis.Ok.coreOf (o n) (by simp [hb]) _).join hroom hpk hoff) rfl o
      · exact (State.keeps_refused (by simp [hb]) _).sound o
    · exact o
  · exact o

/-- What an admission take answers OK to has contents, and where it can run in reverse it fits (R39). -/
theorem admissionAnswer_ok {e : Entry} {g : Segment} (h : admissionAnswer e g = .ok) :
    ∃ x, e.state.shape = some x ∧ (g.reversible = true → reverseTotal x ≤ period g.rate) := by
  unfold admissionAnswer at h
  split at h
  · cases h
  · rename_i x hx
    split at h
    · cases h
    · rename_i hf
      exact ⟨x, hx, fun hr => by simpa [hr, fits] using hf⟩

theorem execAdmissionTake_storeSound (h : execAdmissionTake n s = .next t) (o : s.StoreSound) : t.StoreSound := by
  cases h
  split
  · rename_i p g hb
    split
    · rename_i k hk
      split
      · rename_i hans
        obtain ⟨x, hx, hfit⟩ := admissionAnswer_ok hans
        have hgk : ∀ j, g.refs j = if k = j then 1 else 0 := fun j => by simp [Segment.refs, hk]
        have hrefs : ∀ j, ({ s.axis n with busy := .none, waiting := (s.axis n).waiting ++ [g] } : Axis).refs j =
            (s.axis n).refs j + g.refs j := fun j => by
          simp only [Axis.refs, queueRefs_append, queueRefs_cons, queueRefs_nil]
          omega
        refine State.StoreSound.finish (a := { s.axis n with busy := .none, waiting := (s.axis n).waiting ++ [g] }) o rfl
          (sameContents_takeRef s k) (fun j => ?_) (fun j hj => ?_) (o.pairs n) (fun g' hg' => ?_) (run_kept _ _ _)
        · rw [State.takeRef_refCount, hrefs, hgk]
          omega
        · have hkj : k = j := by
            by_contra hne
            rw [hrefs, hgk, if_neg hne] at hj
            omega
          rw [← hkj]
          exact EntryState.shape_ne_empty hx
        · simp only [Axis.segs, List.mem_append, List.mem_singleton] at hg'
          rcases hg' with (hw | rfl) | hs
          · exact o.waiting n g' hw
          · intro j hj hr
            rw [hk] at hj
            cases hj
            exact ⟨x, hx, hfit hr⟩
          · exact o.segs (List.mem_append.mpr (.inr hs))
      · exact (State.keeps_refused (by simp [hb]) _).storeSound o
    · exact o
  · exact o

/-! ## CONFIGURATION_EXCHANGE -/

theorem execConfigurationExchange_axesSound (h : execConfigurationExchange n s = .next t) (o : s.AxesSound) :
    t.AxesSound := by
  cases h
  split
  · rename_i p c hb
    obtain ⟨hv, hslot, hk⟩ := (o n).2.configuring p c hb
    split
    · have core := Axis.Ok.coreOf (o n) (by simp [hb]) [.send (.reply p (replyOk []))]
      exact runAxis_ok { core with config := hv, known := hk, path := fun act ha => by simp [hslot] at ha } rfl o
    · exact (State.keeps_refused (by simp [hb]) _).sound o
  · exact o

/-- What a configuration exchange answers OK to fits (R20). -/
theorem configurationAnswer_ok {table : Eight Entry} {c : AxisConfig} (h : configurationAnswer table c = .ok) :
    FitsIn table c.defaultProfile c.defaultRate ∧ FitsIn table c.parkProfile c.parkRate := by
  unfold configurationAnswer at h
  split at h
  · rename_i d k hd hk
    split at h
    · rename_i hf
      exact ⟨⟨d, hd, by simpa [fits] using hf.1⟩, ⟨k, hk, by simpa [fits] using hf.2⟩⟩
    · cases h
  · cases h

theorem FitsIn.ne_empty {table : Eight Entry} {k : ProfileId} {r : RateCode} (h : FitsIn table k r) :
    (table.get k).state ≠ .empty := by
  obtain ⟨x, hx, -⟩ := h
  exact EntryState.shape_ne_empty hx

theorem execConfigurationExchange_storeSound (h : execConfigurationExchange n s = .next t) (o : s.StoreSound) :
    t.StoreSound := by
  cases h
  split
  · rename_i p c hb
    split
    · rename_i hans
      obtain ⟨hd, hk⟩ := configurationAnswer_ok hans
      have hrefs : ∀ j, ({ s.axis n with busy := .none, config := c } : Axis).refs j + (s.axis n).config.refs j =
          (s.axis n).refs j + c.refs j := fun j => by
        simp only [Axis.refs]
        omega
      refine State.StoreSound.finish (a := { s.axis n with busy := .none, config := c }) o rfl
        (.trans (sameContents_giveRef _ _) (.trans (sameContents_giveRef _ _)
          (.trans (sameContents_takeRef _ _) (sameContents_takeRef _ _)))) (fun j => ?_) (fun j hj => ?_) ⟨hd, hk⟩
        (fun g hg => o.segs (n := n) hg) (run_kept _ _ _)
      · have := hrefs j; have := s.axis_refs_le n j; have := o.counted j
        have hle : (s.axis n).config.refs j ≤ (s.axis n).refs j := by simp only [Axis.refs]; omega
        simp only [State.takeRef_refCount, State.giveRef_refCount, AxisConfig.refs] at *
        omega
      · have := hrefs j
        by_cases h1 : c.defaultProfile = j
        · rw [← h1]; exact hd.ne_empty
        · by_cases h2 : c.parkProfile = j
          · rw [← h2]; exact hk.ne_empty
          · have : c.refs j = 0 := by simp [AxisConfig.refs, h1, h2]
            omega
    · exact (State.keeps_refused (by simp [hb]) _).storeSound o
  · exact o

/-! ## PARK_TAKE -/

/-- An axis that waits for its park take is IDLE with an empty slot, and ready for the tasks behind it (R109). -/
theorem parkTake_core {a : Axis} {rest : List Task} (o : a.Ok) (hb : a.busy = .parkTake rest) (ts : List Task) :
    ({ a with busy := .none } : Axis).Core ts ∧ tasksEnd rest = true ∧ a.state = .idle ∧ a.slot = none :=
  ⟨o.coreOf (by simp [hb]) ts, o.1.parkRest rest hb⟩

theorem execParkTake_axesSound (h : execParkTake n s = .next t) (o : s.AxesSound) : t.AxesSound := by
  cases h
  split
  · rename_i rest hb
    obtain ⟨core, hte, hst, hslot⟩ := parkTake_core (o n) hb rest
    split
    · refine finish_ok (andThen_ok _ (activate_ok _ core hslot (by simp [hst]) (by simp [hst]) ?_ hte) hte)
        fun m _ => o m
      rintro x k hj
      cases hj
      exact core.config.park
    · exact runAxis_ok core hte o
  · exact o

theorem execParkTake_storeSound (h : execParkTake n s = .next t) (o : s.StoreSound) : t.StoreSound := by
  cases h
  split
  · rename_i rest hb
    split
    · rename_i hslot
      obtain ⟨a, ha⟩ : ∃ a : Axis, a = { s.axis n with
        busy := .none, slot := some ⟨parkSegment (s.axis n).config, none, 0, 0, false⟩ } := ⟨_, rfl⟩
      have hfit := (o.pairs n).2
      have hrefs : ∀ j, a.refs j = (s.axis n).refs j + if (s.axis n).config.parkProfile = j then 1 else 0 := fun j => by
        simp [ha, Axis.refs, hslot, slotRefs, Segment.refs, Segment.profile, parkSegment]
      refine State.StoreSound.finish (a := a) o rfl (sameContents_takeRef _ _) (fun j => ?_) (fun j hj => ?_) ?_
        (fun g hg => ?_) ?_
      · rw [State.takeRef_refCount, hrefs]
        omega
      · rw [hrefs] at hj
        split at hj
        · rename_i he; rw [← he]; exact hfit.ne_empty
        · omega
      · rw [ha]; exact o.pairs n
      · rw [ha] at hg
        simp only [Axis.segs, Option.map_some, Option.toList_some, List.mem_append, List.mem_singleton] at hg
        rcases hg with hw | rfl
        · exact o.waiting n g hw
        · intro j hj _
          cases hj
          exact hfit
      · rw [ha]
        exact .trans (activate_segs _ { s.axis n with busy := .none } _) (andThen_kept _ _ _)
    · refine State.StoreSound.finish (a := { s.axis n with busy := .none }) o rfl (fun _ => rfl) (fun _ => rfl)
        (fun j hj => absurd hj (lt_irrefl _)) (o.pairs n) (fun g hg => o.segs (n := n) hg) (run_kept _ _ _)
  · exact o

/-! ## Profiles that are defined and deleted, and cold starts -/

theorem execDefineProfile_axesSound {p : Port} (h : execDefineProfile p s = .next t) (o : s.AxesSound) :
    t.AxesSound := by
  cases h
  repeat' split
  all_goals exact o

theorem execDeleteProfile_axesSound {p : Port} (h : execDeleteProfile p s = .next t) (o : s.AxesSound) :
    t.AxesSound := by
  cases h
  repeat' split
  all_goals exact o

/-- An entry without references other than entry 0 may take other contents (R93, R94). -/
theorem State.StoreSound.setState {k : ProfileId} {e : EntryState} (o : s.StoreSound) (hk : k ≠ 0)
    (hc : (s.table.get k).refCount = 0) (he : ∀ x, e ≠ .builtIn x) (hi : ∀ x, e.shape = some x → x.inChoices) :
    (s.setTable k { s.table.get k with state := e }).StoreSound := by
  have get : ∀ j, ((s.setTable k { s.table.get k with state := e }).table.get j) =
      if j = k then { s.table.get k with state := e } else s.table.get j := fun j => State.setTable_table ..
  have count : ∀ j, ((s.setTable k { s.table.get k with state := e }).table.get j).refCount = (s.table.get j).refCount :=
    fun j => by
      rw [get]
      split
      · rename_i h; rw [h]
      · rfl
  have other : ∀ j, j ≠ k → ((s.setTable k { s.table.get k with state := e }).table.get j).state = (s.table.get j).state :=
    fun j hj => by rw [get, if_neg hj]
  have here : ((s.setTable k { s.table.get k with state := e }).table.get k).state = e := by rw [get, if_pos rfl]
  have unused : ∀ j m, 0 < (s.axis m).refs j → j ≠ k := by
    rintro j m hj rfl
    have := s.axis_refs_le m j; have := o.counted j
    omega
  have fit : ∀ {j r}, j ≠ k → FitsIn s.table j r →
      FitsIn (s.setTable k { s.table.get k with state := e }).table j r :=
    fun hj ⟨x, hx, hr⟩ => ⟨x, by rw [other _ hj]; exact hx, hr⟩
  refine .of_segs (fun j => (count j).trans (o.counted j)) (fun j hj => ?_) (fun j x => ?_) (fun j x hx => ?_)
    (fun m => ⟨fit (unused _ m ?_) (o.pairs m).1, fit (unused _ m ?_) (o.pairs m).2⟩) fun m g hg j hj hr => ?_
  · rw [count] at hj
    rw [other j (by rintro rfl; omega)]
    exact o.inUse j hj
  · by_cases hjk : j = k
    · rw [hjk, here]
      simp [he, hk]
    · rw [other j hjk]; exact o.builtIn j x
  · by_cases hjk : j = k
    · rw [hjk, here] at hx; exact hi x hx
    · rw [other j hjk] at hx; exact o.choices j x hx
  · simp [Axis.refs, AxisConfig.refs]
  · simp [Axis.refs, AxisConfig.refs]
  · refine fit (unused j m ?_) (o.segs (n := m) hg j hj hr)
    have : 0 < queueRefs j (s.axis m).segs := by
      refine lt_of_lt_of_le (b := g.refs j) (by simp [Segment.refs, hj]) ?_
      exact List.single_le_sum (fun _ _ => Nat.zero_le _) _ (List.mem_map_of_mem hg)
    rw [axis_refs]
    omega

/-- The fields that DEFINE_PROFILE accepts are choices of Table 4-1 (R85, R93). -/
theorem shapeOf_inChoices {f : ProfileArgs} {h : Shape} (e : shapeOf f = some h) : h.inChoices := by
  unfold shapeOf at e
  split at e
  · rename_i hc
    cases e
    simp only [Bool.and_eq_true, List.contains_iff_mem] at hc
    obtain ⟨⟨⟨⟨⟨⟨h1, h2⟩, -⟩, h3⟩, h4⟩, h5⟩, h6⟩ := hc
    exact ⟨h1, h2, h3, h4, h5, h6⟩
  · cases e

theorem execDefineProfile_storeSound {p : Port} (h : execDefineProfile p s = .next t) (o : s.StoreSound) :
    t.StoreSound := by
  cases h
  split
  · split
    · rename_i k x hk hx
      split
      · exact (s.storeReply_keeps p _).storeSound o
      · rename_i hk0
        split
        · exact (s.storeReply_keeps p _).storeSound o
        · rename_i hc
          refine (State.storeReply_keeps p _ _).storeSound (o.setState hk0 (by omega) (by simp) ?_)
          rintro y ⟨⟩
          exact shapeOf_inChoices hx
    · exact (s.storeReply_keeps p _).storeSound o
  · exact o

theorem execDeleteProfile_storeSound {p : Port} (h : execDeleteProfile p s = .next t) (o : s.StoreSound) :
    t.StoreSound := by
  cases h
  split
  · split
    · rename_i k hk
      split
      · exact (s.storeReply_keeps p _).storeSound o
      · rename_i hk0
        split
        · exact (s.storeReply_keeps p _).storeSound o
        · rename_i hc
          exact (State.storeReply_keeps p _ _).storeSound
            (o.setState hk0 (by omega) (by simp) (by simp [EntryState.shape]))
    · exact (s.storeReply_keeps p _).storeSound o
  · exact o

/-- Axes that are all cold are sound. -/
theorem State.axesSound_of_cold (h : s.axes = Eight.same Axis.cold) : s.AxesSound := fun n => by
  have : s.axis n = Axis.cold := by rw [State.axis, h, Eight.get_same]
  rw [this]
  exact cold_ok

/-- A cold store is sound with axes that are all cold (R88). -/
theorem State.storeSound_of_cold (hs : s.store = ProfileStore.cold) (ha : s.axes = Eight.same Axis.cold) :
    s.StoreSound := by
  have axis : ∀ n, s.axis n = Axis.cold := fun n => by rw [State.axis, ha, Eight.get_same]
  have table : ∀ k, s.table.get k =
      if k = 0 then { state := .builtIn builtInShape, refCount := 16 } else { state := .empty, refCount := 0 } :=
    fun k => by rw [State.table, hs, ProfileStore.cold, Eight.get_set, Eight.get_same]
  have segs : Axis.cold.segs = [] := rfl
  have fit : FitsIn s.table 0 2 := ⟨builtInShape, by rw [table]; rfl, by decide⟩
  refine .of_segs (fun k => ?_) (fun k hk => ?_) (fun k x => ?_) (fun k x hx => ?_) (fun n => ?_) fun n g hg => ?_
  · simp only [State.refs, axis, table]
    fin_cases k <;> rfl
  · rw [table] at hk ⊢
    split at hk <;> simp_all
  · rw [table]
    by_cases hk : k = 0
    · simp [hk, eq_comm]
    · simp [hk]
  · rw [table] at hx
    split at hx
    · cases hx
      unfold Shape.inChoices
      decide
    · cases hx
  · rw [axis]; exact ⟨fit, fit⟩
  · rw [axis, segs] at hg; cases hg

theorem execRstLow_sound (h : execRstLow s = .next t) : t.AxesSound ∧ t.StoreSound := by
  cases h
  exact ⟨State.axesSound_of_cold rfl, State.storeSound_of_cold rfl rfl⟩

theorem execRstRelease_axesSound {supv : Bool} (h : execRstRelease supv s = .next t) (o : s.AxesSound) : t.AxesSound := by
  cases h
  split
  · exact State.axesSound_of_cold rfl
  · exact o

theorem execRstRelease_storeSound {supv : Bool} (h : execRstRelease supv s = .next t) (o : s.StoreSound) :
    t.StoreSound := by
  cases h
  split
  · exact State.storeSound_of_cold rfl rfl
  · exact o

/-! ## Every command, and every step -/

/-- The commands in which the store changes, or every block starts cold. -/
def changesStore : Instr → Bool
  | .rstLow => true
  | .rstRelease _ => true
  | .defineProfile _ => true
  | .deleteProfile _ => true
  | .admissionTake _ => true
  | .configurationExchange _ => true
  | .parkTake _ => true
  | .give _ => true
  | _ => false

/-- Every other command keeps the table, the references and the soundness of the axes. -/
theorem exec_keeps (c : Instr) (hc : changesStore c = false) (h : exec c s = .next t) : s.Keeps t := by
  cases c
  case startingEnd => exact execStartingEnd_keeps h
  case haltPin asserted => exact execHaltPin_keeps asserted h
  case filteredHaltChange => exact execFilteredHaltChange_keeps h
  case axisHaltChange n => exact execAxisHaltChange_keeps n h
  case portHaltLevel p => exact (execPortHaltLevel_same p h).keeps
  case frameStart p => exact (execFrameStart_same p h).keeps
  case frameByte p e => exact (execFrameByte_same p e h).keeps
  case frameEnd p => exact (execFrameEnd_same p h).keeps
  case replyArrival p => exact (execReplyArrival_same p h).keeps
  case readDevice p => exact (execReadDevice_same p h).keeps
  case readPortStatus p => exact (execReadPortStatus_same p h).keeps
  case clearPortErrors p => exact (execClearPortErrors_same p h).keeps
  case restart p => exact execRestart_keeps p h
  case axisRestartStep n => exact execAxisRestartStep_keeps n h
  case claimRestartStep => exact execClaimRestartStep_keeps h
  case reportAnswer => exact execReportAnswer_keeps h
  case quietReport src => exact execQuietReport_keeps src h
  case restartClear => exact execRestartClear_keeps h
  case restartEnd => exact execRestartEnd_keeps h
  case claim p => exact execClaim_keeps p h
  case release p => exact execRelease_keeps p h
  case releaseAction n => exact execReleaseAction_keeps n h
  case keep p => exact execKeep_keeps p h
  case seize p => exact execSeize_keeps p h
  case seizeAction n => exact execSeizeAction_keeps n h
  case detach p => exact execDetach_keeps p h
  case detachAction n => exact execDetachAction_keeps n h
  case detachClear => exact execDetachClear_keeps h
  case detachAnswer p src => exact (execDetachAnswer_same p src h).keeps
  case leaseExpiry n => exact execLeaseExpiry_keeps n h
  case lapseAction n => exact execLapseAction_keeps n h
  case authorisation p => exact execAuthorisation_keeps p h
  case go p => exact execGo_keeps p h
  case start n => exact execStart_keeps n h
  case startAnswer p n => exact (execStartAnswer_same n p h).keeps
  case enable n => exact execEnable_keeps n h
  case disable n => exact execDisable_keeps n h
  case configure n => exact execConfigure_keeps n h
  case setPosition n => exact execSetPosition_keeps n h
  case clearFault n => exact execClearFault_keeps n h
  case queue n => exact execQueue_keeps n h
  case cancel n => exact execCancel_keeps n h
  case pause n => exact execPause_keeps n h
  case resume n => exact execResume_keeps n h
  case skip n => exact execSkip_keeps n h
  case stop n => exact execStop_keeps n h
  case readAxis n p => exact execReadAxis_keeps n p h
  case claimAsk n => exact execClaimAsk_keeps n h
  case claimAnswer n => exact execClaimAnswer_keeps n h
  case readQueue n p => exact execReadQueue_keeps n p h
  case readProfile p => exact execReadProfile_keeps p h
  case periodExpiry n => exact execPeriodExpiry_keeps n h
  case pulseEnd n => exact execPulseEnd_keeps n h
  case overcurrent n => exact execOvercurrent_keeps n h
  case noticePosting src => exact execNoticePosting_keeps src h
  case ownerChangeReport => exact execOwnerChangeReport_keeps h
  case readNotices p => exact execReadNotices_keeps p h
  case ackNotices p => exact execAckNotices_keeps p h
  case setNoticeMask p => exact execSetNoticeMask_keeps p h
  case setWatch p => exact execSetWatch_keeps p h
  all_goals cases hc

theorem exec_keeps_axesSound {c : Instr} (o : s.AxesSound) (h : exec c s = .next t) : t.AxesSound := by
  cases hc : changesStore c with
  | false => exact (exec_keeps c hc h).sound o
  | true =>
    cases c
    case rstLow => exact (execRstLow_sound h).1
    case rstRelease supv => exact execRstRelease_axesSound h o
    case defineProfile p => exact execDefineProfile_axesSound h o
    case deleteProfile p => exact execDeleteProfile_axesSound h o
    case admissionTake n => exact execAdmissionTake_axesSound h o
    case configurationExchange n => exact execConfigurationExchange_axesSound h o
    case parkTake n => exact execParkTake_axesSound h o
    case give n => exact execGive_axesSound h o
    all_goals cases hc

theorem exec_keeps_storeSound {c : Instr} (o : s.StoreSound) (h : exec c s = .next t) : t.StoreSound := by
  cases hc : changesStore c with
  | false => exact (exec_keeps c hc h).storeSound o
  | true =>
    cases c
    case rstLow => exact (execRstLow_sound h).2
    case rstRelease supv => exact execRstRelease_storeSound h o
    case defineProfile p => exact execDefineProfile_storeSound h o
    case deleteProfile p => exact execDeleteProfile_storeSound h o
    case admissionTake n => exact execAdmissionTake_storeSound h o
    case configurationExchange n => exact execConfigurationExchange_storeSound h o
    case parkTake n => exact execParkTake_storeSound h o
    case give n => exact execGive_storeSound h o
    all_goals cases hc

/-- A step carries out the front command on a state that differs in the queue of commands alone, or lets one du pass. -/
theorem step_cases (h : step s = .next t) : t = s.advance 1 ∨ ∃ c rest, exec c { s with pending := rest } = .next t := by
  unfold step at h
  split at h
  · cases h; exact .inl rfl
  · exact .inr ⟨_, _, h⟩

/-- Settles O58: each command keeps the axes sound, and so does the passing of a du. -/
theorem everyStepKeepsTheAxesSound : Obligations.EveryStepKeepsTheAxesSound := by
  intro s t o h
  rcases step_cases h with rfl | ⟨c, rest, hc⟩
  · exact (s.keeps_advance 1).sound o
  · exact exec_keeps_axesSound (s := { s with pending := rest }) o hc

/-- Settles O57: each command keeps the references or exchanges them with their counts; the passing of a du keeps both. -/
theorem everyStepKeepsTheProfileStoreSound : Obligations.EveryStepKeepsTheProfileStoreSound := by
  intro s t _ o h
  rcases step_cases h with rfl | ⟨c, rest, hc⟩
  · exact (s.keeps_advance 1).storeSound o
  · have kept : s.Keeps { s with pending := rest } := .of_same rfl rfl
    exact exec_keeps_storeSound (kept.storeSound o) hc

end Sys2Proof.Machine
end

section
/-! The state after reset, and the coil outputs. -/

namespace Sys2Proof.Machine

/-! ## Reset -/

theorem reset_axis (n : AxisId) : State.reset.axis n = Axis.cold := Eight.get_same ..

theorem reset_entry (n : AxisId) : State.reset.entry n = ClaimEntry.free := Eight.get_same ..

theorem reset_port (p : Port) : State.reset.port p = PortUnit.cold false := PerPort.get_same ..

theorem reset_record (p : Port) (n : AxisId) : State.reset.notice.record p n = NoticeRecord.empty := by
  simp [NoticeUnit.record, State.reset, NoticeUnit.cold]

theorem reset_table (k : ProfileId) : State.reset.table.get k =
    if k = 0 then { state := .builtIn builtInShape, refCount := 16 } else { state := .empty, refCount := 0 } := by
  rw [State.table, State.reset, ProfileStore.cold, Eight.get_set, Eight.get_same]

/-- Settles O60: the reset state is cold in every block, and cold blocks are sound. -/
theorem resetIsSoundAndCold : Obligations.ResetIsSoundAndCold := by
  refine ⟨State.axesSound_of_cold rfl, State.storeSound_of_cold rfl rfl, fun n => ?_, fun p => ?_, fun p n => ?_,
    fun n => ?_, rfl, fun n => ?_, reset_table 0, fun k hk => ?_, fun p => ⟨fun n => ?_, ?_⟩⟩
  · rw [reset_entry]
    exact ⟨fun _ => rfl, Nat.zero_le _⟩
  · rw [reset_port]
    exact ⟨Nat.zero_le _, iff_of_true rfl rfl⟩
  · rw [reset_record]
    exact ⟨Nat.zero_le _, by decide, fun _ => rfl⟩
  · rw [reset_entry]
    exact Eight.get_same ..
  · rw [reset_axis, reset_entry]
    exact ⟨rfl, rfl, rfl, rfl, rfl, rfl⟩
  · rw [reset_table, if_neg hk]
  · rw [reset_record]; rfl
  · rw [reset_port]
    exact ⟨rfl, rfl, rfl⟩

/-! ## Coil outputs -/

/-- An output is active only while a pulse is in progress. -/
theorem pulse_of_coilPin {s : State} {n : AxisId} {c : Coil} (h : s.coilPin n c = true) :
    ∃ pl, (s.axis n).pulse = some pl := by
  unfold State.coilPin Axis.driven at h
  split at h
  · rename_i pl _ hp _ _
    exact ⟨pl, hp⟩
  · simp at h

/-- Settles O47: the drive names one coil at most, and a pulse in progress is that of a RUNNING or STOPPING axis. -/
theorem oneCoilAtMostAndOnlyInMotion : Obligations.OneCoilAtMostAndOnlyInMotion := by
  refine fun s n o => ⟨?_, fun hr hs c => ?_⟩
  · unfold State.coilPin
    cases (s.axis n).driven s.table with
    | none => exact .inl rfl
    | some c => cases c with
      | a => exact .inr rfl
      | b => exact .inl rfl
  · by_contra hc
    obtain ⟨pl, hp⟩ := pulse_of_coilPin (Bool.eq_true_of_not_eq_false hc)
    have hst := ((o n).1.pulse pl hp).1
    cases he : pl.endAction <;> rw [he] at hst
    · exact hr hst
    · exact hr hst
    · exact hs hst

end Sys2Proof.Machine
end

section
/-! What the tasks of an event do on an axis that meets their guards, and what the claim unit and an axis controller answer. -/

namespace Sys2Proof.Machine

/-! ## Tasks -/

section

variable (s : State) (n : AxisId) {a : Axis} (ts : List Task)

theorem Axis.busy_of_offer {m : AxisMsg} (h : a.offer = some m) : a.busy = .none := by
  unfold Axis.offer at h
  split at h
  · exact Axis.busy_of_free ‹_›
  · cases h

theorem State.runAxis_enterIdle_silent (hs : a.slot = none) :
    s.runAxis n a (.enterIdle false :: ts) = s.runAxis n { a with state := .idle, faultKind := none } ts :=
  State.runAxis_made _ _ _ _ (by simp [Axis.doTask, Axis.idleWith, hs])

theorem State.runAxis_enterIdle_notice (hs : a.slot = none) :
    s.runAxis n a (.enterIdle true :: ts) =
      s.runAxis n { a with state := .idle, faultKind := none, posts := a.posts ++ [⟨.idle, 0⟩] } ts :=
  State.runAxis_made _ _ _ _ (by simp [Axis.doTask, Axis.idleWith, hs, Axis.post])

theorem State.runAxis_enterOff (hs : a.slot = none) (hw : a.waiting = []) :
    s.runAxis n a (.enterOff :: ts) = s.runAxis n { a with state := .off, pauseFlag := false, faultKind := none } ts :=
  State.runAxis_made _ _ _ _ (by simp [Axis.doTask, Axis.offNow, hs, hw])

theorem State.runAxis_enterFaulted (hs : a.slot = none) (cause : FaultCause) :
    s.runAxis n a (.enterFaulted cause :: ts) =
      s.runAxis n { a with state := .faulted, faultKind := some cause, posts := a.posts ++ [⟨.fault, 0⟩] } ts :=
  State.runAxis_made _ _ _ _ (by simp [Axis.doTask, Axis.faultNow, hs, Axis.post])

theorem State.runAxis_clearPause :
    s.runAxis n a (.clearPause :: ts) = s.runAxis n { a with pauseFlag := false } ts :=
  State.runAxis_made _ _ _ _ rfl

theorem State.runAxis_finishPulse {pl : Pulse} (hp : a.pulse = some pl) (why : Stopping) :
    s.runAxis n a (.finishPulse why :: ts) = s.runAxis n
      { a with
        state := .stopping
        pulse := some { pl with
          endAction := if pl.endAction = .finish .restart then .finish .restart else .finish why } } ts :=
  State.runAxis_made _ _ _ _ (by simp [Axis.doTask, Axis.finishing, hp])

/-- A PARK-type action places no segment where the position is not known (R107). -/
theorem State.runAxis_park_unknown (hv : a.positionValid = false) : s.runAxis n a (.park :: ts) = s.runAxis n a ts :=
  State.runAxis_made _ _ _ _ (by simp [Axis.doTask, hv])

end

/-! ## The claim unit: AUTHORISATION and KEEP -/

/-- Settles O24: the checks of R124 in their order; KEEP names in its mask the axes whose leases it renews. -/
theorem onlyTheOwnerPassesAndRenews : Obligations.OnlyTheOwnerPassesAndRenews := by
  refine ⟨fun s p axis m hin => ⟨fun hge => ?_, fun n hn => ⟨fun ho => ?_, fun ho => ?_⟩⟩, fun s p mask hin => ?_⟩
  · simp only [exec, execAuthorisation, hin, axisOf_of_ge hge]
    rfl
  · have owns : s.owns p n = false := by simp [State.owns, ho]
    simp only [exec, execAuthorisation, hin, axisOf_of_val hn, owns]
    rfl
  · have owns : s.owns p n = true := by simp [State.owns, ho]
    simp only [exec, execAuthorisation, hin, axisOf_of_val hn, owns]
    rfl
  · obtain ⟨f, hf⟩ : ∃ f : AxisId → Bool, f = fun n => inMask mask n && s.owns p n := ⟨_, rfl⟩
    refine ⟨(s.claimTaken p).renewAll f, maskOf f, ?_, fun n => ?_, fun n => ?_, rfl⟩
    · simp only [exec, execKeep, hin, ← hf]
      rfl
    · rw [maskOf_getLsbD, hf]
      simp [inMask, State.owns]
    · rw [maskOf_getLsbD, State.entry_renewAll]
      rfl

/-! ## Reads -/

/-- The reply data of READ_QUEUE, byte by byte (R179). -/
theorem queueData_eq (slot : Option Active) (waiting : List Segment) :
    queueData slot waiting =
      (match slot with
        | some act =>
          [0x01, act.seg.job.code, act.seg.tag, flagByte act.seg.gated act.clipped false false,
            highByte (BitVec.ofNat 16 act.remaining), lowByte (BitVec.ofNat 16 act.remaining)]
        | none => [0x00, 0x00, 0x00, 0x00, 0x00, 0x00]) ++
      BitVec.ofNat 8 waiting.length :: waiting.flatMap Segment.entryBytes := by
  cases slot <;> simp [queueData, wordBytes]

/-- Settles O28: each read takes the request of its port, and the claim unit answers from its entry. -/
theorem readsReportTheAxisAndItsClaim : Obligations.ReadsReportTheAxisAndItsClaim := by
  intro s n p a b ha hf hb
  refine ⟨fun q hr => ?_, fun hr => ?_, fun hr => ⟨?_, ?_, fun owner left => ?_⟩⟩
  · cases q
    · simp only [exec, execReadAxis, ha, hf, hr, hb, Bool.false_eq_true, if_false]
      rfl
    · simp only [exec, execReadQueue, ha, hf, hr, hb, if_true]
      rfl
  · simp only [exec, execReadQueue, ha, hf, hr, hb, if_true, queueData_eq]
    cases a.slot <;> rfl
  · simp only [exec, execReadAxis, ha, hf, hr, hb]
  · simp only [exec, execClaimAsk, State.axis_setAxis_same, State.setAxis_setAxis]
    rfl
  · simp only [exec, execClaimAnswer, State.axis_setAxis_same, State.runAxis_setAxis]
    have hb' : ({ b with busy := .none } : Axis) = b := by rw [hb, ← Axis.busy_of_free hf]
    simp only [hb', State.runAxis_send, AxisView.data, wordBytes]
    cases hs : a.slot <;> simp [Axis.view, hs] <;> rfl

/-! ## ENABLE and DISABLE -/

/-- A request that is answered and changes nothing else. -/
theorem State.axisAnswers_eq {s : State} {n : AxisId} {a : Axis} (ha : s.axis n = a) (p : Port) (r : Reply) :
    s.axisAnswers n p r = (s.setAxis n a.taken).reply p r := by
  rw [State.axisAnswers, ha]
  rfl

/-- Settles O29: by the state of the axis; a FAULTED axis gives its queue back first. -/
theorem enableAndDisableMoveAnAxisInAndOutOfService : Obligations.EnableAndDisableMoveAnAxisInAndOutOfService := by
  intro s n p a b ha hb
  obtain rfl : b = a.taken := hb
  refine ⟨fun ho => ⟨fun hs => ?_, fun hs => ?_⟩, fun ho => ⟨fun hs => ?_, fun hs hslot hw => ?_, fun hs hslot => ?_,
    fun h1 h2 h3 => ?_⟩⟩
  · simp only [exec, execEnable, ha, ho, hs]
    rfl
  · simp only [exec, execEnable, ha, ho, State.axisAnswers_eq ha]
    rfl
  · simp only [exec, execDisable, ha, ho, hs, State.axisAnswers_eq ha]
    rfl
  · simp only [exec, execDisable, ha, ho, hs]
    rw [State.runAxis_enterOff s n _ (a := a.taken) hslot hw]
    rfl
  · have e : exec (.disable n) s =
        .next (s.runAxis n a.taken [.dropWaiting, .enterOff, .send (.reply p (replyOk []))]) := by
      simp only [exec, execDisable, ha, ho, hs]
    rw [execAll_cons e, execAll_dropWaiting s n a.taken _ a.waiting rfl (Axis.busy_of_offer (a := a) ho),
      State.runAxis_enterOff]
    · rfl
    · exact hslot
    · rfl
  · simp only [exec, execDisable, ha, ho]
    rw [State.axisAnswers_eq ha]
    rfl

end Sys2Proof.Machine
end

section
/-! The argument bytes of CONFIGURE and QUEUE, and the exchange of a configuration (1 R18 to R21, 2 R36 to R38). -/

namespace Sys2Proof.Machine

/-! ## Nibbles and codes -/

theorem nibble8_of_lt {k : Nat} (h : k < 8) : ∃ x, nibble8 k = some x := ⟨⟨k, h⟩, by simp [nibble8, h]⟩

theorem val_of_nibble8 {k : Nat} {x : Fin 8} (h : nibble8 k = some x) : x.val = k := by
  unfold nibble8 at h
  split at h
  · cases h; rfl
  · cases h

theorem thresholdOf_of_lt {k : Nat} (h : k < 4) : ∃ x, thresholdOf k = some x := ⟨⟨k, h⟩, by simp [thresholdOf, h]⟩

theorem val_of_thresholdOf {k : Nat} {x : Fin 4} (h : thresholdOf k = some x) : x.val = k := by
  unfold thresholdOf at h
  split at h
  · cases h; rfl
  · cases h

theorem lapseOf_of_lt {k : Nat} (h : k < 3) : ∃ x, lapseOf k = some x := by
  match k, h with
  | 0, _ => exact ⟨_, rfl⟩
  | 1, _ => exact ⟨_, rfl⟩
  | 2, _ => exact ⟨_, rfl⟩

theorem lapseOf_some {k : Nat} {x : LapseAction} (h : lapseOf k = some x) :
    k < 3 ∧ (x = .stop ↔ k = 0) ∧ (x = .park ↔ k = 1) ∧ (x = .finish ↔ k = 2) := by
  unfold lapseOf at h
  split at h <;> cases h <;> simp

theorem codeOrDefault_some {d x : Fin 8} {k : Nat} (h : codeOrDefault d k = some x) :
    (k = 15 → x = d) ∧ (k ≠ 15 → x.val = k) := by
  unfold codeOrDefault at h
  split at h
  · rename_i hk
    cases h
    exact ⟨fun _ => rfl, fun hn => absurd hk hn⟩
  · rename_i hk
    exact ⟨fun he => absurd he hk, fun _ => val_of_nibble8 h⟩

theorem codeOrDefault_eq_none {d : Fin 8} {k : Nat} : codeOrDefault d k = none ↔ 8 ≤ k ∧ k ≠ 15 := by
  unfold codeOrDefault nibble8
  split
  · rename_i hk; simp [hk]
  · rename_i hk
    split
    · simp; omega
    · simp; omega

/-! ## CONFIGURE's arguments -/

/-- What CONFIGURE's arguments describe, field by field (R18, Table 10-2). -/
theorem configOf_some {c : ConfigureArgs} {k : AxisConfig} (h : configOf c = some k) :
    ¬ (c.hiLimit.toNat < c.loLimit.toNat ∨ c.homeOverdrive.toNat = 0 ∨ 4095 < c.homeOverdrive.toNat) ∧
    k = { k with
          loLimit := c.loLimit, hiLimit := c.hiLimit, homePosition := c.homePosition
          homeOverdrive := c.homeOverdrive, parkPosition := c.parkPosition } ∧
    nibble8 (highNibble c.defaultPair) = some k.defaultProfile ∧ nibble8 (lowNibble c.defaultPair) = some k.defaultRate ∧
    nibble8 (highNibble c.parkPair) = some k.parkProfile ∧ nibble8 (lowNibble c.parkPair) = some k.parkRate ∧
    lapseOf (highNibble c.behaviour) = some k.lapseAction ∧
    thresholdOf (lowNibble c.behaviour) = some k.lowThreshold := by
  unfold configOf at h
  split at h
  · cases h
  · rename_i hlim
    split at h
    · rename_i h1 h2 h3 h4 h5 h6
      cases h
      exact ⟨hlim, rfl, h1, h2, h3, h4, h5, h6⟩
    · cases h

/-- Arguments in their ranges describe a configuration. -/
theorem configOf_of_ranges {c : ConfigureArgs}
    (hlim : ¬ (c.hiLimit.toNat < c.loLimit.toNat ∨ c.homeOverdrive.toNat = 0 ∨ 4095 < c.homeOverdrive.toNat))
    (h1 : highNibble c.defaultPair < 8) (h2 : lowNibble c.defaultPair < 8) (h3 : highNibble c.parkPair < 8)
    (h4 : lowNibble c.parkPair < 8) (h5 : highNibble c.behaviour < 3) (h6 : lowNibble c.behaviour < 4) :
    ∃ k, configOf c = some k := by
  obtain ⟨x1, e1⟩ := nibble8_of_lt h1
  obtain ⟨x2, e2⟩ := nibble8_of_lt h2
  obtain ⟨x3, e3⟩ := nibble8_of_lt h3
  obtain ⟨x4, e4⟩ := nibble8_of_lt h4
  obtain ⟨x5, e5⟩ := lapseOf_of_lt h5
  obtain ⟨x6, e6⟩ := thresholdOf_of_lt h6
  rw [configOf, if_neg hlim, e1, e2, e3, e4, e5, e6]
  exact ⟨_, rfl⟩

/-! ## QUEUE's arguments -/

theorem byte_eq_iff {b x : Byte} {k : Nat} (hk : x.toNat = k) : b = x ↔ b.toNat = k := by
  rw [← BitVec.toNat_inj, hk]

theorem jobOf_eq_none {kind : Byte} {value : Word16} {profile : ProfileId} :
    jobOf kind value profile = none ↔
      kind.toNat = 0 ∨ 5 ≤ kind.toNat ∨ (kind = 0x01 ∧ (value = 0x0000 ∨ value = 0x8000)) ∨
        (kind = 0x04 ∧ value = 0x0000) := by
  rw [byte_eq_iff (x := 0x01) (k := 1) rfl, byte_eq_iff (x := 0x04) (k := 4) rfl]
  unfold jobOf
  split
  · rename_i hk; simp [hk, Classical.or_iff_not_imp_left]
  · rename_i hk; simp [hk]
  · rename_i hk; simp [hk]
  · rename_i hk; simp [hk]
  · rename_i h1 h2 h3 h4
    refine iff_of_true rfl ?_
    change _ ≠ 1 at h1
    change _ ≠ 2 at h2
    change _ ≠ 3 at h3
    change _ ≠ 4 at h4
    omega

theorem jobOf_some {kind : Byte} {value : Word16} {profile : ProfileId} {job : Job}
    (h : jobOf kind value profile = some job) :
    (kind = 0x04 → job = .dwell value) ∧ (kind = 0x01 → job = .move value profile) ∧
      (kind = 0x02 → job = .goto value profile) ∧ (kind = 0x03 → job = .home profile) := by
  rw [byte_eq_iff (x := 0x01) (k := 1) rfl, byte_eq_iff (x := 0x02) (k := 2) rfl, byte_eq_iff (x := 0x03) (k := 3) rfl,
    byte_eq_iff (x := 0x04) (k := 4) rfl]
  unfold jobOf at h
  split at h
  · rename_i hk
    split at h <;> cases h
    simp [hk]
  · rename_i hk; cases h; simp [hk]
  · rename_i hk; cases h; simp [hk]
  · rename_i hk
    split at h <;> cases h
    simp [hk]
  · cases h

/-- The parts of the segment that QUEUE's arguments describe (R36, R38). -/
theorem segmentOf_some {c : AxisConfig} {q : QueueArgs} {g : Segment} (h : segmentOf c q = some g) :
    ∃ profile, codeOrDefault c.defaultProfile (highNibble q.profileRate) = some profile ∧
      codeOrDefault c.defaultRate (lowNibble q.profileRate) = some g.rate ∧
      jobOf q.kind q.value profile = some g.job ∧
      g.tag = q.tag ∧ g.gated = q.flags.getLsbD 0 ∧ g.notify = q.flags.getLsbD 1 := by
  unfold segmentOf at h
  split at h
  · rename_i profile rate hp hr
    split at h
    · rename_i job hj
      cases h
      exact ⟨profile, hp, hr, hj, rfl, rfl, rfl⟩
    · cases h
  · cases h

/-- QUEUE's arguments describe no segment where a code is no code, or its kind and value make no job (R36, R38). -/
theorem segmentOf_eq_none {c : AxisConfig} {q : QueueArgs} :
    segmentOf c q = none ↔ codeOrDefault c.defaultProfile (highNibble q.profileRate) = none ∨
      codeOrDefault c.defaultRate (lowNibble q.profileRate) = none ∨ jobOf q.kind q.value 0 = none := by
  have any : ∀ k, jobOf q.kind q.value k = none ↔ jobOf q.kind q.value 0 = none := fun k => by
    rw [jobOf_eq_none, jobOf_eq_none]
  unfold segmentOf
  cases codeOrDefault c.defaultProfile (highNibble q.profileRate) with
  | none => simp
  | some profile =>
    cases codeOrDefault c.defaultRate (lowNibble q.profileRate) with
    | none => simp
    | some rate =>
      cases hj : jobOf q.kind q.value profile with
      | none => simp [(any profile).1 hj, hj]
      | some job =>
        have : jobOf q.kind q.value 0 ≠ none := fun h => by rw [(any profile).2 h] at hj; cases hj
        simp [this, hj]

/-- Settles O31: each argument is read by its own code, and the whole is refused where one of them has no meaning. -/
theorem argumentsAreCheckedAndRead : Obligations.ArgumentsAreCheckedAndRead := by
  refine ⟨fun c => ⟨⟨fun hn => ?_, fun h => ?_⟩, fun k hk => ?_⟩, fun k q => ⟨?_, fun g hg => ?_⟩⟩
  · by_contra hc
    simp only [not_or, Nat.not_le] at hc
    obtain ⟨l1, l2, l3, h1, h2, h3, h4, h5, h6⟩ := hc
    obtain ⟨k, hk⟩ := configOf_of_ranges (c := c) (by omega) h1 h2 h3 h4 h5 h6
    rw [hn] at hk
    cases hk
  · cases hk : configOf c with
    | none => rfl
    | some k =>
      obtain ⟨hlim, -, h1, h2, h3, h4, h5, h6⟩ := configOf_some hk
      have := val_of_nibble8 h1; have := val_of_nibble8 h2; have := val_of_nibble8 h3; have := val_of_nibble8 h4
      have := (lapseOf_some h5).1; have := val_of_thresholdOf h6
      simp only [highNibble, lowNibble] at *
      omega
  · obtain ⟨-, he, h1, h2, h3, h4, h5, h6⟩ := configOf_some hk
    exact ⟨he, val_of_nibble8 h1, val_of_nibble8 h2, val_of_nibble8 h3, val_of_nibble8 h4, val_of_thresholdOf h6,
      (lapseOf_some h5).2⟩
  · rw [segmentOf_eq_none, codeOrDefault_eq_none, codeOrDefault_eq_none, jobOf_eq_none]
    simp only [highNibble, lowNibble]
    tauto
  · obtain ⟨profile, hp, hr, hj, ht, hg, hn⟩ := segmentOf_some hg
    obtain ⟨hp15, hpk⟩ := codeOrDefault_some hp
    obtain ⟨hr15, hrk⟩ := codeOrDefault_some hr
    obtain ⟨j4, j1, j2, j3⟩ := jobOf_some hj
    exact ⟨ht, hg, hn, hr15, hrk, j4, fun _ => ⟨profile, hp15, hpk, j1, j2, j3⟩⟩

/-! ## The exchange of a configuration -/

theorem Entry.ext_of {x y : Entry} (h1 : x.state = y.state) (h2 : x.refCount = y.refCount) : x = y := by
  cases x; cases y; simp_all

/-- The new references are taken, and the old ones given back (R20, R89). -/
def State.exchanged (s : State) (new old : AxisConfig) : State :=
  (((s.takeRef new.defaultProfile).takeRef new.parkProfile).giveRef old.defaultProfile).giveRef old.parkProfile

theorem State.exchanged_table (s : State) (new old : AxisConfig) (e : ProfileId) :
    (s.exchanged new old).table.get e =
      { s.table.get e with refCount := (s.table.get e).refCount + new.refs e - old.refs e } := by
  refine Entry.ext_of ?_ ?_
  · exact SameContents.trans (sameContents_giveRef _ _) (.trans (sameContents_giveRef _ _)
      (.trans (sameContents_takeRef _ _) (sameContents_takeRef _ _))) e
  · simp only [State.exchanged, State.giveRef_refCount, State.takeRef_refCount, AxisConfig.refs]
    omega

theorem within_iff (c : AxisConfig) (x : Word16) :
    within c x = true ↔ c.loLimit.toNat ≤ x.toNat ∧ x.toNat ≤ c.hiLimit.toNat := by simp [within]

theorem positionsWithin_iff (c : AxisConfig) (x : Word16) (v : Bool) : positionsWithin c x v = true ↔
    within c c.homePosition = true ∧ within c c.parkPosition = true ∧ (v = true → within c x = true) := by
  simp only [positionsWithin, Bool.and_eq_true, Bool.or_eq_true, Bool.not_eq_true', and_assoc]
  cases v <;> simp

/-- Settles O32: the three checks of CONFIGURE in their order, and the answers of its exchange. -/
theorem aConfigurationIsExchangedWholeOrRefused : Obligations.AConfigurationIsExchangedWholeOrRefused := by
  refine ⟨fun s n p a b args ha ho hb => ⟨fun h1 h2 => ?_, fun hst hc => ?_, fun c inside hst hc hin => ?_⟩,
    fun s n p a b c d k ha hbusy hb hd hk => ⟨fun hnone => ?_, fun h h' hdh hkh => ⟨fun hfit => ?_, fun f1 f2 => ?_⟩⟩⟩
  · obtain rfl : b = a.taken := hb
    simp only [exec, execConfigure, ha, ho, h1, h2, or_self, if_false, State.axisAnswers_eq ha]
    rfl
  · obtain rfl : b = a.taken := hb
    simp only [exec, execConfigure, ha, ho, hst, if_true, hc, State.axisAnswers_eq ha]
    rfl
  · obtain rfl : b = a.taken := hb
    have checks : positionsWithin c a.position a.positionValid = true ↔
        inside c.homePosition ∧ inside c.parkPosition ∧ (a.positionValid = true → inside a.position) := by
      simp only [positionsWithin_iff, within_iff, hin]
    refine ⟨fun hno => ?_, fun h1 h2 h3 => ?_⟩
    · rw [← checks] at hno
      simp only [exec, execConfigure, ha, ho, hst, if_true, hc, hno, State.axisAnswers_eq ha]
      rfl
    · simp only [exec, execConfigure, ha, ho, hst, if_true, hc, checks.2 ⟨h1, h2, h3⟩]
  · have e : configurationAnswer s.table c = .profileEmpty := by
      rw [configurationAnswer, ← hd, ← hk]
      rcases hnone with h | h
      · rw [h]
      · rw [h]; cases d <;> rfl
    simp only [exec, execConfigurationExchange, ha, hbusy, e, hb]
    rfl
  · have e : configurationAnswer s.table c = .fitConflict := by
      rw [configurationAnswer, ← hd, ← hk, hdh, hkh]
      simp only [fits, decide_eq_true_iff]
      rw [if_neg (by omega)]
    simp only [exec, execConfigurationExchange, ha, hbusy, e, hb]
    rfl
  · have e : configurationAnswer s.table c = .ok := by
      rw [configurationAnswer, ← hd, ← hk, hdh, hkh]
      simp [fits, f1, f2]
    refine ⟨s.exchanged c a.config, ?_, rfl, s.exchanged_table c a.config⟩
    simp only [exec, execConfigurationExchange, ha, hbusy, e, hb, if_true]
    rfl

end Sys2Proof.Machine
end

section
/-! Whole events of an axis controller that begin between its steps: the restart step, CLEAR_FAULT, STOP and the actions of the
claim unit (1 R24, R27, 3 R76, R77, 7 R127 to R132). -/

namespace Sys2Proof.Machine

/-! ## The restart step -/

theorem AxisMsg.isRequest_iff (m : AxisMsg) : m.isRequest = true ↔ ∃ p x, m = .request p x := by
  cases m <;> simp [AxisMsg.isRequest]

/-- A request waits where the claim unit has passed one on, or a port has handed a read on (R27). -/
theorem Axis.requestWaits_iff (a : Axis) : a.requestWaits = true ↔
    (∃ p m, .request p m ∈ a.fromClaim) ∨ ∃ p, a.reads.get p ≠ none := by
  simp only [Axis.requestWaits, Bool.or_eq_true, List.any_eq_true, AxisMsg.isRequest_iff, Option.isSome_iff_ne_none,
    or_assoc]
  refine or_congr ⟨?_, ?_⟩ ⟨?_, ?_⟩
  · rintro ⟨_, hm, p, x, rfl⟩
    exact ⟨p, x, hm⟩
  · rintro ⟨p, x, hm⟩
    exact ⟨_, hm, p, x, rfl⟩
  · rintro (h | h)
    · exact ⟨.a, h⟩
    · exact ⟨.b, h⟩
  · rintro ⟨p, h⟩
    cases p
    · exact .inl h
    · exact .inr h

section

variable {s : State} {n : AxisId} {a : Axis}

theorem exec_axisRestartStep_waits (ha : s.axis n = a) (h : a.requestWaits = true) :
    exec (.axisRestartStep n) s = .next s := by
  simp [exec, execAxisRestartStep, ha, h]

theorem exec_axisRestartStep (ha : s.axis n = a) (hf : a.free = true) (hr : a.restartIn = true)
    (h : a.requestWaits = false) :
    exec (.axisRestartStep n) s = .next (s.runAxis n { a with restartIn := false } a.restartTasks) := by
  simp [exec, execAxisRestartStep, ha, hf, hr, h]

/-- The discard of the queue and of the active segment between pulses, once the store has taken their gives (R33, R34). -/
theorem execAll_dropAll {act : Active} (s : State) (n : AxisId) (a : Axis) (ts : List Task) (hs : a.slot = some act)
    (hp : a.pulse = none) (hb : a.busy = .none) :
    execAll (gives n (a.waiting ++ [act.seg])) (s.runAxis n a (.dropWaiting :: .dropActive :: ts)) =
      .next ((s.withGivenBack (a.waiting ++ [act.seg])).runAxis n ({ a with waiting := [] } : Axis).clearSlot ts) := by
  rw [gives_append, execAll_append (execAll_dropWaiting s n a _ a.waiting rfl hb), State.withGivenBack_append]
  exact execAll_dropActive _ n { a with waiting := [] } ts hs hp hb

end

/-- Settles O18: the tasks of R27 for each state, run through the gives of what they discard. -/
theorem theRestartStepQuietsAnAxis : Obligations.TheRestartStepQuietsAnAxis := by
  intro s n a b start ha hf hr hb hstart
  subst hb hstart
  have hbusy := Axis.busy_of_free hf
  refine ⟨fun hw => exec_axisRestartStep_waits ha (a.requestWaits_iff.2 hw), fun hc hq => ?_⟩
  have idle : a.requestWaits = false := by
    rw [Bool.eq_false_iff, ne_eq, Axis.requestWaits_iff]
    rintro (⟨p, m, h⟩ | ⟨p, h⟩)
    · exact hc p m h
    · exact h (hq p)
  have e := exec_axisRestartStep ha hf hr idle
  refine ⟨fun hs => ?_, fun hs => ?_, fun hs hslot => ?_, fun act hs hp hslot => ?_, fun pl hs hp => ?_⟩
  · have tasks : a.restartTasks = [.send .quiet] := by simp [Axis.restartTasks, hs]
    rw [e, tasks]
    rfl
  · have tasks : a.restartTasks = [.clearPause, .send .quiet] := by simp [Axis.restartTasks, hs]
    rw [e, tasks]
    rfl
  · have tasks : a.restartTasks = [.dropWaiting, .clearPause, .enterIdle false, .send .quiet] := by
      simp [Axis.restartTasks, hs]
    rw [execAll_cons e, tasks, execAll_dropWaiting s n { a with restartIn := false } _ a.waiting rfl hbusy,
      State.runAxis_clearPause, State.runAxis_enterIdle_silent]
    · rfl
    · exact hslot
  · have tasks : a.restartTasks = [.dropWaiting, .dropActive, .clearPause, .enterIdle false, .send .quiet] := by
      rcases hs with h | h | h <;> simp [Axis.restartTasks, h, hp]
    rw [execAll_cons e, tasks, execAll_dropAll s n { a with restartIn := false } _ hslot hp hbusy,
      State.runAxis_clearPause, State.runAxis_enterIdle_silent]
    · rfl
    · rfl
  · have tasks : a.restartTasks = [.dropWaiting, .clearPause, .finishPulse .restart] := by
      rcases hs with h | h <;> simp [Axis.restartTasks, h, hp]
    rw [execAll_cons e, tasks, execAll_dropWaiting s n { a with restartIn := false } _ a.waiting rfl hbusy,
      State.runAxis_clearPause, State.runAxis_finishPulse (pl := pl)]
    · rw [ite_self]; rfl
    · exact hp

/-! ## CLEAR_FAULT -/

/-- Settles O30: the axis enters IDLE with its notice, and the wake of R12 goes on to what waits. -/
theorem aClearFaultActivatesTheHead : Obligations.AClearFaultActivatesTheHead := by
  intro s n p a b ha ho hb
  refine ⟨fun hs => ?_, fun h1 h2 => ?_, fun hs hslot => ?_⟩
  · have e : exec (.clearFault n) s = .next (s.axisAnswers n p (refusal .axisOff)) := by
      simp only [exec, execClearFault, ha, ho, hs]
    rw [e, State.axisAnswers_eq ha]
    rfl
  · simp only [exec, execClearFault, ha, ho]
    rw [State.axisAnswers_eq ha]
    rfl
  · have e : exec (.clearFault n) s = .next (s.runAxis n b [.wake, .send (.reply p (replyOk []))]) := by
      simp only [exec, execClearFault, ha, ho, hs]
      rw [State.runAxis_enterIdle_notice (a := a.taken) s n _ hslot, hb]
      rfl
    have hbusy : b.busy = .none := by rw [hb]; exact Axis.busy_of_offer (a := a) ho
    have hbslot : b.slot = none := by rw [hb]; exact hslot
    have hbw : b.waiting = a.waiting := by rw [hb]
    have hbst : b.state = .idle := by rw [hb]
    have whole := execAll_cons (cs := gives n (b.wakes s.table).2) e
    rw [execAll_wake s n _ b hbusy hbslot hbst] at whole
    refine ⟨fun hw => ?_, fun g rest r hw hr hc => ?_, fun c left hw hg => ?_⟩
    · have hwakes : b.wakes s.table = (b, []) := by rw [Axis.wakes, hbw, if_pos hw]
      rw [hwakes, State.withGivenBack_nil, gives_nil, execAll_cons e, execAll_nil] at whole
      rw [e, whole]
      rfl
    · rw [e, State.runAxis_wake_step (hw := hbw.trans hw) (hs := hbslot) (h1 := hbst) (hr := by rw [hb]; exact hr)
        (hc := hc)]
      rfl
    · have hwakes : b.wakes s.table = (c, left) := by rw [Axis.wakes, hbw, if_neg hw, hg]
      rw [hwakes] at whole
      exact whole

/-! ## STOP and the actions of the claim unit -/

/-- The tasks by which a STOP-type or a PARK-type action ends an axis's work (R76, R77). -/
def Axis.endTasks (a : Axis) : Stopping → List Task
  | .park => a.parkTasks
  | _ => a.stopTasks

/-- What a STOP or an action of the claim unit sends at its end: the reply or answer it owes. -/
def AxisMsg.answerTasks : AxisMsg → List Task
  | .request p _ => [.send (.reply p (replyOk []))]
  | .release p _ => [.send (.reply p (replyOk []))]
  | .seize p => [.send (.reply p (replyOk [ownerCode (some p.other)]))]
  | .detach p => [.send (.answerDetach p)]
  | _ => []

theorem State.runAxis_answerTasks (s : State) (n : AxisId) (a : Axis) (m : AxisMsg) :
    s.runAxis n a m.answerTasks = (s.setAxis n a).answered n m := by
  cases m <;> rfl

section

variable {s : State} {n : AxisId} {a : Axis} {m : AxisMsg}

/-- A lapse or a detach where lapse_action is FINISH sends its answer alone (R77). -/
theorem exec_finishes (ha : s.axis n = a) (ho : a.offer = some m) (hm : m = .lapse ∨ ∃ p, m = .detach p)
    (hl : a.config.lapseAction = .finish) :
    exec (m.takenBy n) s = .next (s.runAxis n a.taken m.answerTasks) := by
  rcases hm with rfl | ⟨p, rfl⟩
  · simp only [AxisMsg.takenBy, exec, execLapseAction, ha, ho, Axis.lapseTasks, hl, AxisMsg.answerTasks]
  · simp only [AxisMsg.takenBy, exec, execDetachAction, ha, ho, Axis.lapseTasks, hl, AxisMsg.answerTasks,
      List.nil_append]

/-- The tasks of a lapse or detach whose lapse_action ends the axis's work (R5). -/
theorem Axis.lapseTasks_eq (hl : a.config.lapseAction ≠ .finish) :
    a.lapseTasks = a.endTasks (if a.config.lapseAction = .park then .park else .stop) := by
  unfold Axis.lapseTasks
  split
  · rename_i h; rw [if_neg (by simp [h])]; rfl
  · rename_i h; rw [if_pos h]; rfl
  · rename_i h; exact absurd h hl

/-- A STOP or an action that ends an axis's work makes the tasks of its kind and then sends its answer. -/
theorem exec_endsWork (ha : s.axis n = a) (ho : a.offer = some m) {why : Stopping}
    (hw : m.endsWork a.config.lapseAction = some why) :
    exec (m.takenBy n) s = .next (s.runAxis n a.taken (a.endTasks why ++ m.answerTasks)) := by
  cases m with
  | request p x =>
    cases x <;> cases hw
    simp only [AxisMsg.takenBy, exec, execStop, ha, ho, Axis.endTasks, AxisMsg.answerTasks]
  | start p => cases hw
  | lapse =>
    simp only [AxisMsg.endsWork] at hw
    split at hw
    · cases hw
    · rename_i hl
      cases hw
      simp only [AxisMsg.takenBy, exec, execLapseAction, ha, ho, AxisMsg.answerTasks, List.append_nil,
        Axis.lapseTasks_eq hl]
  | release p park =>
    cases park <;> cases hw <;>
      simp only [AxisMsg.takenBy, exec, execReleaseAction, ha, ho, Axis.endTasks, AxisMsg.answerTasks, if_true,
        Bool.false_eq_true, if_false]
  | seize p =>
    cases hw
    simp only [AxisMsg.takenBy, exec, execSeizeAction, ha, ho, Axis.endTasks, AxisMsg.answerTasks]
  | detach p =>
    simp only [AxisMsg.endsWork] at hw
    split at hw
    · cases hw
    · rename_i hl
      cases hw
      simp only [AxisMsg.takenBy, exec, execDetachAction, ha, ho, AxisMsg.answerTasks, Axis.lapseTasks_eq hl]

/-- No STOP or action of the claim unit is a restart. -/
theorem AxisMsg.endsWork_ne_restart {l : LapseAction} {why : Stopping} (hw : m.endsWork l = some why) :
    why = .stop ∨ why = .park := by
  cases why
  · exact .inl rfl
  · exact .inr rfl
  · exfalso
    unfold AxisMsg.endsWork at hw
    repeat' split at hw
    all_goals cases hw

end

/-- Settles O40: the tasks of a STOP-type and of a PARK-type action in the states that hold no segment, and during a pulse. -/
theorem stopsAndActionsAtRestAndInAPulse : Obligations.StopsAndActionsAtRestAndInAPulse := by
  intro s n m a b ha ho hb
  obtain rfl : b = a.taken := hb
  have hbusy := Axis.busy_of_offer ho
  refine ⟨fun hm hl => ?_, fun why hw => ?_⟩
  · rw [exec_finishes ha ho hm hl, State.runAxis_answerTasks]
  · have e := exec_endsWork ha ho hw
    have hwhy := AxisMsg.endsWork_ne_restart hw
    refine ⟨fun hs => ?_, fun hs hv => ?_, fun hs => ?_, fun pl hs hp => ?_⟩
    · have tasks : a.endTasks why = [] := by
        rcases hwhy with rfl | rfl <;> simp [Axis.endTasks, Axis.stopTasks, Axis.parkTasks, hs]
      rw [e, tasks, List.nil_append, State.runAxis_answerTasks]
    · rcases hwhy with rfl | rfl
      · have tasks : a.endTasks .stop = [] := by simp [Axis.endTasks, Axis.stopTasks, hs]
        rw [e, tasks, List.nil_append, State.runAxis_answerTasks]
      · have tasks : a.endTasks .park = [.park] := by simp [Axis.endTasks, Axis.parkTasks, hs]
        have hv' : a.positionValid = false := hv.resolve_left (by simp)
        rw [e, tasks, List.singleton_append, State.runAxis_park_unknown (a := a.taken) _ _ _ hv',
          State.runAxis_answerTasks]
    · have tasks : a.endTasks why = [.dropWaiting] := by
        rcases hwhy with rfl | rfl <;> simp [Axis.endTasks, Axis.stopTasks, Axis.parkTasks, hs]
      rw [execAll_cons e, tasks, List.singleton_append, execAll_dropWaiting s n a.taken _ a.waiting rfl hbusy,
        State.runAxis_answerTasks]
    · have tasks : a.endTasks why = [.dropWaiting, .finishPulse why] := by
        rcases hwhy with rfl | rfl <;> rcases hs with h | h <;>
          simp [Axis.endTasks, Axis.stopTasks, Axis.parkTasks, h, hp]
      rw [execAll_cons e, tasks, List.cons_append, List.singleton_append,
        execAll_dropWaiting s n a.taken _ a.waiting rfl hbusy, State.runAxis_finishPulse (pl := pl),
        State.runAxis_answerTasks]
      exact hp

end Sys2Proof.Machine
end

section
/-! Steps, dwell periods and their expiries (3 R56 to R66). -/

namespace Sys2Proof.Machine

/-! ## The step that begins -/

section

variable (table : Eight Entry) {a : Axis} {act : Active}

/-- No step begins outside RUNNING, in a pulse, or before the period has expired (R58). -/
theorem Axis.beginStep_stays (h : a.state ≠ .running ∨ a.pulse ≠ none ∨ a.periodExpired = false) :
    Axis.beginStep table a = a := by
  unfold Axis.beginStep
  split
  · rw [if_neg]
    rintro ⟨h1, h2, h3, -⟩
    rcases h with h | h | h
    · exact h h1
    · exact h h3
    · rw [h] at h2; cases h2
  · rfl

/-- A step flips phase and starts its pulse and the period (R60). -/
theorem Axis.beginStep_step {dir : Direction} (hs : a.slot = some act) (h1 : a.state = .running)
    (h2 : a.periodExpired = true) (h3 : a.pulse = none) (h4 : 0 < act.remaining) (hd : act.seg.isDwell = false)
    (hdir : act.direction = some dir) :
    Axis.beginStep table a = { a with
      periodLeft := period act.seg.rate
      periodExpired := false
      phase := a.phase.other
      pulse := some (Pulse.first (act.seg.shapeIn table) act.seg.rate dir a.phase) } := by
  unfold Axis.beginStep
  simp only [hs, h1, h2, h3, h4, and_self, if_true, hd, hdir, Axis.startTimer]

/-- A dwell period sets the dwell mark and starts the period (R66). -/
theorem Axis.beginStep_dwell (hs : a.slot = some act) (h1 : a.state = .running) (h2 : a.periodExpired = true)
    (h3 : a.pulse = none) (h4 : 0 < act.remaining) (hd : act.seg.isDwell = true) :
    Axis.beginStep table a =
      { a with periodLeft := period act.seg.rate, periodExpired := false, dwellMark := true } := by
  unfold Axis.beginStep
  simp only [hs, h1, h2, h3, h4, and_self, if_true, hd, Axis.startTimer]

end

theorem State.runAxis_begin (s : State) (n : AxisId) (a : Axis) :
    s.runAxis n a [.begin] = s.setAxis n (Axis.beginStep s.table a) :=
  State.runAxis_made _ _ _ _ rfl

/-! ## PERIOD_EXPIRY -/

section

variable {s t : State} {n : AxisId} {a b : Axis}

/-- The axis at the expiry of its period, where no pulse runs on with it. -/
theorem Axis.advance_to_expiry (hp : a.pulse = none ∨ a.tripped = true) :
    a.advance a.periodLeft = { a with periodLeft := 0 } := by
  unfold Axis.advance
  rw [Nat.sub_self]
  congr 1
  rcases hp with hp | ht
  · rw [hp]; split <;> rfl
  · rw [ht, if_pos rfl]

/-- PERIOD_EXPIRY of a free axis in which no pulse runs (R59). -/
theorem exec_periodExpiry (ha : s.axis n = a) (hf : a.free = true) (hpe : a.periodExpired = false)
    (hp : a.pulse = none ∨ a.tripped = true) (ht : t = s.advance a.periodLeft) :
    exec (.periodExpiry n) s = .next (t.finish n (Axis.periodEnd t.table { a with periodLeft := 0 })) := by
  have here : t.axis n = { a with periodLeft := 0 } := by
    rw [ht, State.axis_advance, ha, Axis.advance_to_expiry hp]
  have notPulse : ∀ pl, ¬ (a.pulse = some pl ∧ a.tripped = false) := by
    rintro pl ⟨h1, h2⟩
    rcases hp with h | h
    · rw [h1] at h; cases h
    · rw [h2] at h; cases h
  have guard : ¬ (a.free = false ∨ a.periodExpired = true) := by simp [hf, hpe]
  simp only [exec, execPeriodExpiry, ha, if_neg guard, ← ht]
  split
  · rename_i pl h1 h2
    exact absurd ⟨h1, h2⟩ (notPulse pl)
  · rw [here]

/-- An expiry with no dwell period to count is remembered, and a step may begin (R58, R59). -/
theorem exec_periodExpiry_unmarked (ha : s.axis n = a) (hf : a.free = true) (hpe : a.periodExpired = false)
    (hp : a.pulse = none ∨ a.tripped = true) (hm : a.dwellMark = false ∨ a.slot = none)
    (ht : t = s.advance a.periodLeft) (hb : b = { a with periodLeft := 0, periodExpired := true }) :
    exec (.periodExpiry n) s = .next (t.setAxis n (Axis.beginStep s.table b)) := by
  have e : Axis.periodEnd t.table { a with periodLeft := 0 } = Axis.run t.table [.begin] b := by
    unfold Axis.periodEnd
    split
    · rename_i act h1 h2
      rcases hm with h | h
      · rw [h] at h1; cases h1
      · rw [h] at h2; cases h2
    · rw [hb]
  have table : t.table = s.table := by rw [ht]; rfl
  rw [exec_periodExpiry ha hf hpe hp ht, e, ← table]
  exact congrArg _ (State.runAxis_begin t n b)

/-- An expiry that ends a dwell period counts it, and the event goes on (R66). -/
theorem exec_periodExpiry_marked {act : Active} (ha : s.axis n = a) (hf : a.free = true) (hpe : a.periodExpired = false)
    (hp : a.pulse = none) (hm : a.dwellMark = true) (hs : a.slot = some act) (ht : t = s.advance a.periodLeft)
    (hb : b = { a with
      periodLeft := 0, periodExpired := true, dwellMark := false
      slot := some { act with remaining := act.remaining - 1 } }) :
    exec (.periodExpiry n) s =
      .next (t.runAxis n b (if act.remaining ≤ 1 then [.complete, .next, .begin] else [.begin])) := by
  have e : Axis.periodEnd t.table { a with periodLeft := 0 } =
      Axis.run t.table (if act.remaining ≤ 1 then [.complete, .next, .begin] else [.begin]) b := by
    simp only [Axis.periodEnd, hm, hs, hb]
    split <;> rfl
  rw [exec_periodExpiry ha hf hpe (.inl hp) ht, e]
  rfl

end

/-- A DWELL that completes posts its DONE and leaves the slot, with no reference to give back (R50). -/
theorem Axis.doTask_complete_dwell (table : Eight Entry) {a : Axis} {act : Active} (hs : a.slot = some act)
    (hp : a.pulse = none) (hd : act.seg.isDwell = true) :
    Axis.doTask table a .complete = .made
      { a with slot := none, truncReported := false, dwellMark := false, posts := a.posts ++ act.seg.donePost } [] := by
  have hprof := dwellProfile hd
  have hhome : act.seg.isHome = false := by
    unfold Segment.isHome
    unfold Segment.isDwell at hd
    split at hd
    · rename_i h; rw [h]
    · cases hd
  simp only [Axis.doTask, hp, Axis.completeActive, hs, hprof, Axis.homeReached, hhome, Bool.false_eq_true, if_false,
    Axis.doneAndClear, Segment.donePost]
  split <;> simp [Axis.clearSlot, Axis.post, hp]

/-- Settles O48: without a dwell mark the expiry is remembered and a step may begin; with it the dwell period counts first. -/
theorem aPeriodExpiryBeginsTheNextStep : Obligations.APeriodExpiryBeginsTheNextStep := by
  intro s t n a b ha hf hpe ht hb
  refine ⟨fun hs hp => ?_, fun hp htr hm => ?_, fun act h hp hs hh => ⟨fun hm hst => ?_, fun hm hst hrem =>
    ⟨fun hd hdir => ?_, fun hd hdir => ?_, fun hd => ?_⟩, fun hm hd hrem => ⟨fun hst => ?_, fun hst => ?_⟩,
    fun c left hm hd hrem hst hgo => ?_⟩⟩
  · rw [exec_periodExpiry_unmarked ha hf hpe (.inl hp) (.inr hs) ht hb, Axis.beginStep_of_empty _ (by rw [hb]; exact hs)]
  · rw [exec_periodExpiry_unmarked ha hf hpe (.inr htr) (.inl hm) ht hb,
      Axis.beginStep_stays _ (.inr (.inl (by rw [hb]; exact hp)))]
  · rw [exec_periodExpiry_unmarked ha hf hpe (.inl hp) (.inl hm) ht hb,
      Axis.beginStep_stays _ (.inl (by rw [hb]; exact hst))]
  · rw [exec_periodExpiry_unmarked ha hf hpe (.inl hp) (.inl hm) ht hb,
      Axis.beginStep_step (hs := by rw [hb]; exact hs) (h1 := by rw [hb]; exact hst) (h2 := by rw [hb])
        (h3 := by rw [hb]; exact hp) (h4 := hrem) (hd := hd) (hdir := hdir), hh, hb]
    rfl
  · rw [exec_periodExpiry_unmarked ha hf hpe (.inl hp) (.inl hm) ht hb,
      Axis.beginStep_step (hs := by rw [hb]; exact hs) (h1 := by rw [hb]; exact hst) (h2 := by rw [hb])
        (h3 := by rw [hb]; exact hp) (h4 := hrem) (hd := hd) (hdir := hdir), hh, hb]
    rfl
  · rw [exec_periodExpiry_unmarked ha hf hpe (.inl hp) (.inl hm) ht hb,
      Axis.beginStep_dwell (hs := by rw [hb]; exact hs) (h1 := by rw [hb]; exact hst) (h2 := by rw [hb])
        (h3 := by rw [hb]; exact hp) (h4 := hrem) (hd := hd)]
  · rw [exec_periodExpiry_marked ha hf hpe hp hm hs ht rfl, if_neg (by omega), State.runAxis_begin,
      Axis.beginStep_dwell (act := { act with remaining := act.remaining - 1 }) (hs := by rfl) (h1 := by exact hst)
        (h2 := by rfl) (h3 := by exact hp) (h4 := by dsimp only; omega) (hd := by exact hd), hb, hm]
  · rw [exec_periodExpiry_marked ha hf hpe hp hm hs ht rfl, if_neg (by omega), State.runAxis_begin,
      Axis.beginStep_stays _ (.inl (by dsimp only; rw [hst]; decide)), hb]
  · have table : t.table = s.table := by rw [ht]; rfl
    obtain ⟨x, hx⟩ : ∃ x : Axis, x = { b with
        dwellMark := false, slot := none, truncReported := false, posts := a.posts ++ act.seg.donePost } := ⟨_, rfl⟩
    obtain ⟨counted, hcd⟩ : ∃ d : Axis, d = { a with
        periodLeft := 0, periodExpired := true, dwellMark := false
        slot := some { act with remaining := act.remaining - 1 } } := ⟨_, rfl⟩
    have completes : Axis.doTask t.table counted .complete = .made x [] := by
      rw [Axis.doTask_complete_dwell (act := { act with remaining := act.remaining - 1 }) (hs := by rw [hcd])
        (hp := by rw [hcd]; exact hp) (hd := hd), hx, hb, hcd]
    have e : exec (.periodExpiry n) s = .next (t.runAxis n x [.next, lastTask False]) := by
      rw [exec_periodExpiry_marked ha hf hpe hp hm hs ht hcd, if_pos (by omega), State.runAxis_made (h := completes)]
      rfl
    have hgo' : x.goesOn t.table x.waiting = (c, left) := by
      have hw : x.waiting = a.waiting := by rw [hx, hb]
      rw [table, hw, hx]; exact hgo
    have whole := execAll_cons (cs := gives n (x.goesOn t.table x.waiting).2) e
    rw [execAll_next_last t n x False (by rw [hx, hb]; exact Axis.busy_of_free hf) (by rw [hx])
      (by rw [hx, hb]; rcases hst with h | h <;> simp [h]) (by rw [hx, hb]; rcases hst with h | h <;> simp [h]),
      hgo'] at whole
    exact whole

end Sys2Proof.Machine
end

section
/-! Pulse ends and overcurrents over whole events (3 R63, R64, R79 to R82, 1 R28). -/

namespace Sys2Proof.Machine

/-! ## The axis whose step has counted -/

section

variable {s t : State} {n : AxisId} {a : Axis} {act : Active} {pl : Pulse}

/-- The axis, with its state untouched by the time that has passed, once the step of its pulse has counted (R63 steps 1 to 3). -/
theorem stepCounts_record (ha : s.axis n = a) (htr : a.tripped = false) (hp : a.pulse = some pl)
    (hs : a.slot = some act) (ht : t = s.advance (pl.cutAt - pl.elapsed)) :
    (t.axis n).stepCounts pl = { t.axis n with
      pulse := none
      slot := some { act with remaining := act.remaining - 1 }
      position := a.stepped pl.direction act.seg
      posts := a.posts ++ if pl.truncated = true ∧ a.truncReported = false then [⟨.trunc, 0⟩] else []
      truncReported := a.truncReported || pl.truncated } := by
  obtain ⟨h1, h2⟩ := Axis.stepCounts_advance ha htr hp hs ht
  rw [h1, h2]

theorem advance_axis_state (ha : s.axis n = a) (ht : t = s.advance (pl.cutAt - pl.elapsed)) :
    (t.axis n).state = a.state ∧ (t.axis n).busy = a.busy ∧ (t.axis n).waiting = a.waiting ∧
      (t.axis n).config = a.config ∧ (t.axis n).positionValid = a.positionValid ∧
      (t.axis n).pauseFlag = a.pauseFlag ∧ (t.axis n).haltSeen = a.haltSeen ∧ (t.axis n).phase = a.phase ∧
      (t.axis n).periodExpired = a.periodExpired := by
  rw [ht, State.axis_advance, ha]
  exact ⟨rfl, rfl, rfl, rfl, rfl, rfl, rfl, rfl, rfl⟩

/-- Where the period ends with the pulse, both rows take the one event of R64. -/
theorem exec_periodExpiry_together (ha : s.axis n = a) (hf : a.free = true) (htr : a.tripped = false)
    (hp : a.pulse = some pl) (hs : a.slot = some act) (hpe : a.periodExpired = false)
    (h : pl.cutAt = period act.seg.rate ∧ a.periodLeft ≤ pl.cutAt - pl.elapsed) :
    exec (.periodExpiry n) s = exec (.pulseEnd n) s := by
  have ends : a.endsWithPeriod pl = true := by
    rw [Axis.endsWithPeriod, hs]
    exact decide_eq_true ⟨h.1, hpe, h.2⟩
  have runs : a.pulseRuns = true := by simp [Axis.pulseRuns, hf, htr]
  simp [exec, execPeriodExpiry, execPulseEnd, ha, hf, hpe, hp, htr, ends, runs]

end

/-- The last task of a pulse end, on an axis in which no step may begin before its period is taken. -/
theorem State.runAxis_lastTask_unexpired (s : State) (n : AxisId) {a : Axis} (together : Prop) [Decidable together]
    (h : a.periodExpired = false) :
    s.runAxis n a [lastTask together] = s.setAxis n (a.expiresIf s.table together) :=
  State.runAxis_lastTask s n a together (Axis.beginStep_stays _ (.inr (.inr h)))

theorem Axis.expiresIf_of_not (table : Eight Entry) {together : Prop} [Decidable together] (a : Axis) (h : ¬ together) :
    a.expiresIf table together = a := by
  rw [Axis.expiresIf, if_neg h]

theorem Axis.expiresIf_of (table : Eight Entry) {together : Prop} [Decidable together] (a : Axis) (h : together) :
    a.expiresIf table together = Axis.beginStep table { a with periodExpired := true } := by
  rw [Axis.expiresIf, if_pos h]

/-- Settles O49: with steps left the event makes its last task alone, on the axis that a hold may have held. -/
theorem aPulseEndCountsItsStep : Obligations.APulseEndCountsItsStep := by
  classical
  intro s t n a b act pl together ha hf htr hp hs hst hpe hend hrem ht hb htog
  have table : t.table = s.table := by rw [ht]; rfl
  obtain ⟨t1, -, -, -, -, t6, t7, t8, t9⟩ := advance_axis_state ha ht
  have hx : b = (t.axis n).stepCounts pl := by rw [stepCounts_record ha htr hp hs ht, hb]; rfl
  have hbs : b.slot = some { act with remaining := act.remaining - 1 } := by rw [hb]
  have hbp : b.pulse = none := by rw [hb]
  have hbst : b.state = .running := by rw [hb]; exact t1.trans hst
  have hbe : b.periodExpired = false := by rw [hb]; exact t9.trans hpe
  have hbr : b.remaining ≠ 0 := by rw [Axis.remaining, hbs]; dsimp only; omega
  have hbh : b.holdCause = (a.pauseFlag || a.haltSeen) := by rw [Axis.holdCause, hb, ← t6, ← t7]
  have whole := exec_pulseEnd_runAxis together ha hf htr hp hs hpe htog ht hx
  rw [hend, Axis.afterPulse, if_neg hbr, hbh] at whole
  have held : (a.pauseFlag || a.haltSeen) = true → exec (.pulseEnd n) s =
      .next (t.setAxis n (({ b with state := .held } : Axis).expiresIf t.table together)) := fun h => by
    rw [if_pos h] at whole
    exact whole.trans (congrArg _ (State.runAxis_lastTask_unexpired t n together hbe))
  have goes : (a.pauseFlag || a.haltSeen) = false → exec (.pulseEnd n) s =
      .next (t.setAxis n (b.expiresIf t.table together)) := fun h => by
    rw [if_neg (by simp [h])] at whole
    exact whole.trans (congrArg _ (State.runAxis_lastTask_unexpired t n together hbe))
  refine ⟨fun hno h => ?_, fun hno h => ?_, fun hto h => ?_, fun dir hto h hdir hd => ?_, fun hto => ?_⟩
  · rw [held h, Axis.expiresIf_of_not _ _ hno]
  · rw [goes h, Axis.expiresIf_of_not _ _ hno]
  · rw [held h, Axis.expiresIf_of _ _ hto, Axis.beginStep_stays _ (.inl (by simp))]
  · rw [goes h, Axis.expiresIf_of _ _ hto, table, Axis.beginStep_step (act := { act with remaining := act.remaining - 1 })
      (hs := by exact hbs) (h1 := by exact hbst) (h2 := by rfl) (h3 := by exact hbp) (h4 := by dsimp only; omega)
      (hd := by exact hd) (hdir := by exact hdir)]
    have hphase : b.phase = a.phase := by rw [hb]; exact t8
    rw [hphase]
    congr 2
    rw [← hbe]
  · exact exec_periodExpiry_together ha hf htr hp hs hpe (htog.1 hto)

/-! ## Segments that end with their pulse -/

/-- The axis once its active segment has completed, as one record (R50, R105). -/
theorem Axis.completed_eq {a : Axis} {act : Active} (hs : a.slot = some act) :
    a.completed = { a with
      slot := none
      truncReported := false
      dwellMark := false
      position := if act.seg.isHome then a.config.homePosition else a.position
      positionValid := a.positionValid || act.seg.isHome
      posts := a.posts ++ act.seg.donePost } := by
  unfold Axis.completed Axis.homeReached
  rw [hs]
  cases hh : act.seg.isHome <;> cases hn : act.seg.notify <;>
    simp [Axis.doneAndClear, hs, hh, hn, Segment.donePost, Axis.clearSlot, Axis.post]

theorem gives_profile (n : AxisId) {g : Segment} (h : g.profile ≠ none) : gives n [g] = [.give n] := by
  obtain ⟨k, hk⟩ := Option.ne_none_iff_exists'.mp h
  rw [gives_cons_some n [] hk, gives_nil]

section

variable {s : State} {n : AxisId} {a b : Axis} {act : Active} {ts : List Task}

/-- A completion in the middle of an event, through its give. -/
theorem execAll_complete_record (hs : a.slot = some act) (hp : a.pulse = none) (hg : act.seg.profile ≠ none)
    (hb : a.busy = .none) (hc : a.completed = b) :
    execAll (gives n [act.seg]) (s.runAxis n a (.complete :: ts)) =
      .next ((s.withGivenBack [act.seg]).runAxis n b ts) := by
  obtain ⟨k, hk⟩ := Option.ne_none_iff_exists'.mp hg
  rw [gives_profile n hg, execAll_complete s n a ts hs hp hk hb, hc]

/-- Going on after the segment `g` has left, with the step that may begin at the end of the event. -/
theorem execAll_next_after (together : Prop) [Decidable together] (g : Segment) {c : Axis} {left : List Segment}
    (hb : a.busy = .none) (hs : a.slot = none) (h1 : a.state ≠ .off) (h2 : a.state ≠ .faulted)
    (hgo : a.goesOn s.table a.waiting = (c, left)) :
    execAll (gives n left) ((s.withGivenBack [g]).runAxis n a [.next, lastTask together]) =
      .next ((s.withGivenBack (g :: left)).setAxis n (c.expiresIf s.table together)) := by
  have same := sameContents_withGivenBack s [g]
  have whole := execAll_next_last (s.withGivenBack [g]) n a together hb hs h1 h2
  rw [Axis.goesOn_contents same, hgo, Axis.expiresIf_contents same, ← State.withGivenBack_cons] at whole
  exact whole

/-- The wake of an IDLE axis in the middle of an event, after the segment `g` has left. -/
theorem execAll_wake_given (g : Segment) {c : Axis} {left : List Segment}
    (hb : a.busy = .none) (hs : a.slot = none) (h1 : a.state = .idle) (hw : a.wakes s.table = (c, left)) :
    execAll (gives n left) ((s.withGivenBack [g]).runAxis n a (.wake :: ts)) =
      .next ((s.withGivenBack (g :: left)).runAxis n c ts) := by
  have whole := execAll_wake (s.withGivenBack [g]) n ts a hb hs h1
  rw [Axis.wakes_contents (sameContents_withGivenBack s [g]), hw, ← State.withGivenBack_cons] at whole
  exact whole

/-- The wake of an IDLE axis after the segment `g` has left, with the step that may begin at the end of the event. -/
theorem execAll_wake_after (together : Prop) [Decidable together] (g : Segment) {c : Axis} {left : List Segment}
    (hb : a.busy = .none) (hs : a.slot = none) (h1 : a.state = .idle) (hw : a.wakes s.table = (c, left)) :
    execAll (gives n left) ((s.withGivenBack [g]).runAxis n a [.wake, lastTask together]) =
      .next ((s.withGivenBack (g :: left)).setAxis n (c.expiresIf s.table together)) := by
  have same := sameContents_withGivenBack s [g]
  have whole := execAll_wake_last (s.withGivenBack [g]) n a together hb hs h1
  rw [Axis.wakes_contents same, hw, Axis.expiresIf_contents same, ← State.withGivenBack_cons] at whole
  exact whole

/-- The placement of a PARK segment after the segments `gone` have left. -/
theorem execAll_park_after (together : Prop) [Decidable together] (gone : List Segment) {c : Axis} {left : List Segment}
    (hb : a.busy = .none) (hs : a.slot = none) (h1 : a.state = .idle) (hv : a.positionValid = true)
    (hpk : a.parks s.table = (c, left)) :
    execAll (.parkTake n :: gives n left) ((s.withGivenBack gone).runAxis n a [.park, lastTask together]) =
      .next ((((s.withGivenBack gone).takeRef a.config.parkProfile).withGivenBack left).setAxis n
        (c.expiresIf s.table together)) := by
  have same := sameContents_withGivenBack s gone
  have whole := execAll_park_last (s.withGivenBack gone) n a together hb hs h1 hv
  rw [Axis.parks_contents same, hpk, Axis.expiresIf_contents same] at whole
  exact whole

end

section

variable {s t : State} {n : AxisId} {a x : Axis} {act : Active} {pl : Pulse} {ts : List Task} (together : Prop)
  [Decidable together]

/-- A pulse end whose end action leaves the axis itself to its tasks. -/
theorem exec_pulseEnd_tasks (ha : s.axis n = a) (hf : a.free = true) (htr : a.tripped = false) (hp : a.pulse = some pl)
    (hs : a.slot = some act) (hpe : a.periodExpired = false)
    (htog : together ↔ pl.cutAt = period act.seg.rate ∧ a.periodLeft ≤ pl.cutAt - pl.elapsed)
    (ht : t = s.advance (pl.cutAt - pl.elapsed)) (hx : x = (t.axis n).stepCounts pl)
    (tasks : x.afterPulse pl.endAction = (x, ts)) :
    exec (.pulseEnd n) s = .next (t.runAxis n x (ts ++ [lastTask together])) := by
  rw [exec_pulseEnd_runAxis together ha hf htr hp hs hpe htog ht hx, tasks]

end

/-- Settles O50: at the last step the three end actions complete the segment and go on. -/
theorem theLastPulseCompletesItsSegment : Obligations.TheLastPulseCompletesItsSegment := by
  intro s t n a b c act pl left ha hf htr hp hs hg hrem hpe hst hend ht hb hgo
  have table : t.table = s.table := by rw [ht]; rfl
  obtain ⟨t1, t2, t3, t4, t5, -, -, -, -⟩ := advance_axis_state ha ht
  obtain ⟨x, hx⟩ : ∃ x, x = (t.axis n).stepCounts pl := ⟨_, rfl⟩
  have hxr := hx.trans (stepCounts_record ha htr hp hs ht)
  have hxs : x.slot = some { act with remaining := act.remaining - 1 } := by rw [hxr]
  have hrem0 : x.remaining = 0 := by rw [Axis.remaining, hxs]; dsimp only; omega
  have tasks : x.afterPulse pl.endAction = (x, [.complete, .next]) := by
    rcases hend with h | h | h <;> rw [h, Axis.afterPulse, if_pos hrem0]
  have hbusy : a.busy = .none := Axis.busy_of_free hf
  have hc : x.completed = b := by
    rw [Axis.completed_eq hxs, hxr, hb]
    dsimp only [Axis.stepped]
    rw [t4, t5]
    congr 1
    cases act.seg.isHome <;> cases a.positionValid <;> rfl
  have complete : ∀ ts, execAll (gives n [act.seg]) (t.runAxis n x (.complete :: ts)) =
      .next ((t.withGivenBack [act.seg]).runAxis n b ts) := fun ts =>
    execAll_complete_record (act := { act with remaining := act.remaining - 1 }) hxs (by rw [hxr]) hg
      (by rw [hxr]; exact t2.trans hbusy) hc
  have hbst : b.state = pl.endAction.runsIn := by rw [hb]; exact t1.trans hst
  have hgo' : b.goesOn t.table b.waiting = (c, left) := by
    rw [table, show b.waiting = a.waiting by rw [hb]; exact t3]
    exact hgo
  rw [execAll_cons (exec_pulseEnd_tasks _ ha hf htr hp hs hpe Iff.rfl ht hx tasks), gives_cons,
    List.cons_append, execAll_append (complete _), ← table]
  refine execAll_next_after _ act.seg (by rw [hb]; exact t2.trans hbusy) (by rw [hb]) ?_ ?_ hgo'
  all_goals rw [hbst]; rcases hend with h | h | h <;> simp [h, EndAction.runsIn]

/-- Settles O51: the discard of the active segment is one for all; the tasks behind it are those of the end action. -/
theorem endActionsDiscardTheSegment : Obligations.EndActionsDiscardTheSegment := by
  intro s t n a b c act pl left together _ ha hf htr hp hs hg hrem hpe hst htog ht hb
  have table : t.table = s.table := by rw [ht]; rfl
  obtain ⟨t1, t2, t3, t4, t5, -, -, -, -⟩ := advance_axis_state ha ht
  obtain ⟨x, hx⟩ : ∃ x, x = (t.axis n).stepCounts pl := ⟨_, rfl⟩
  have hxr := hx.trans (stepCounts_record ha htr hp hs ht)
  have hxs : x.slot = some { act with remaining := act.remaining - 1 } := by rw [hxr]
  have hxrem : x.remaining = act.remaining - 1 := by rw [Axis.remaining, hxs]
  have hxp : x.pulse = none := by rw [hxr]
  have hxbusy : x.busy = .none := by rw [hxr]; exact t2.trans (Axis.busy_of_free hf)
  have hxb : x.clearSlot = b := by rw [hxr, hb]; rfl
  have hbs : b.slot = none := by rw [hb]
  have hbbusy : b.busy = .none := by rw [← hxb]; exact hxbusy
  have hbw : b.waiting = a.waiting := by rw [hb]; exact t3
  have hbst : b.state = pl.endAction.runsIn := by rw [hb]; exact t1.trans hst
  have event : ∀ {ts}, x.afterPulse pl.endAction = (x, ts) →
      exec (.pulseEnd n) s = .next (t.runAxis n x (ts ++ [lastTask together])) := fun tasks =>
    exec_pulseEnd_tasks together ha hf htr hp hs hpe htog ht hx tasks
  have drop : ∀ ts, execAll (gives n [act.seg]) (t.runAxis n x (.dropActive :: ts)) =
      .next ((t.withGivenBack [act.seg]).runAxis n b ts) := fun ts =>
    hxb ▸ execAll_dropActive t n x ts (act := { act with remaining := act.remaining - 1 }) hxs hxp hxbusy
  rw [← table]
  refine ⟨fun he h1 hgo => ?_, fun he h1 hw => ?_, fun he hw => ?_, fun ended gone he hgone hended => ?_⟩
  · have tasks : x.afterPulse pl.endAction = (x, [.dropActive, .next]) := by
      rw [he, Axis.afterPulse, if_neg (by omega)]
    rw [execAll_cons (event tasks), gives_cons, List.cons_append, execAll_append (drop _)]
    exact execAll_next_after _ act.seg hbbusy hbs (by simp [hbst, he, EndAction.runsIn])
      (by simp [hbst, he, EndAction.runsIn]) (hbw ▸ hgo)
  · have tasks : x.afterPulse pl.endAction = (x, [.dropActive, .enterIdle true, .wake]) := by
      rw [he, Axis.afterPulse, if_neg (by omega)]
    rw [execAll_cons (event tasks), gives_cons, List.cons_append, execAll_append (drop _), List.cons_append,
      State.runAxis_enterIdle_notice _ _ _ hbs]
    exact execAll_wake_after _ act.seg (by exact hbbusy) (by exact hbs) rfl hw
  · have tasks : x.afterPulse pl.endAction = (x, [.dropActive, .enterIdle false, .send .quiet, .wake]) := by
      rw [he, Axis.afterPulse]
    rw [execAll_cons (event tasks), gives_cons, List.cons_append, execAll_append (drop _), List.cons_append,
      State.runAxis_enterIdle_silent _ _ _ hbs, List.cons_append, State.runAxis_quiet]
    exact execAll_wake_after (s := { t with start := { t.start with quietSent := t.start.quietSent.set n true } })
      together act.seg (by exact hbbusy) (by exact hbs) rfl hw
  · subst hgone
    have same := sameContents_withGivenBack t (act.seg :: a.waiting)
    obtain ⟨first, y, tasks, leaves, hyw, hyb, hys, hye⟩ : ∃ first y,
        x.afterPulse pl.endAction = (x, [first, .dropWaiting, .enterIdle true, .park]) ∧
        (∀ ts, execAll (gives n [act.seg]) (t.runAxis n x (first :: ts)) =
          .next ((t.withGivenBack [act.seg]).runAxis n y ts)) ∧
        y.waiting = a.waiting ∧ y.busy = .none ∧ y.slot = none ∧
        ended = { y with waiting := [], state := .idle, faultKind := none, posts := y.posts ++ [⟨.idle, 0⟩] } := by
      by_cases hr : act.remaining = 1
      · refine ⟨.complete, x.completed, by rw [he, Axis.afterPulse, if_pos (by omega)], fun ts =>
          execAll_complete_record (act := { act with remaining := act.remaining - 1 }) hxs hxp hg hxbusy rfl, ?_⟩
        rw [Axis.completed_eq hxs]
        refine ⟨by rw [hxr]; exact t3, hxbusy, rfl, ?_⟩
        have hbpos : b.position = a.stepped pl.direction act.seg := by rw [hb]; rfl
        rw [hended, hbpos, hb, hxr]
        dsimp only
        rw [t4, t5]
        simp only [hr, true_and, decide_true, Bool.true_and, if_true]
      · refine ⟨.dropActive, b, by rw [he, Axis.afterPulse, if_neg (by omega)], drop, hbw, hbbusy, hbs, ?_⟩
        rw [hended]
        simp [hr, hb, t5]
    have discards : execAll (gives n (act.seg :: a.waiting))
        (t.runAxis n x ([first, .dropWaiting, .enterIdle true, .park] ++ [lastTask together])) =
          .next ((t.withGivenBack (act.seg :: a.waiting)).runAxis n ended [.park, lastTask together]) := by
      rw [gives_cons, List.cons_append, execAll_append (leaves _), List.cons_append,
        execAll_dropWaiting _ n y _ a.waiting hyw hyb, List.cons_append,
        State.runAxis_enterIdle_notice _ _ _ (by exact hys), ← State.withGivenBack_cons, hye]
      rfl
    have hes : ended.slot = none := by rw [hye]; exact hys
    have heb : ended.busy = .none := by rw [hye]; exact hyb
    have hei : ended.state = .idle := by rw [hye]
    have hec : ended.config = a.config := by rw [hended, hb]; exact t4
    refine ⟨fun hv => ?_, fun hv hpk => ?_⟩
    · rw [execAll_cons (event tasks), discards, State.runAxis_park_unknown _ _ _ hv,
        State.runAxis_lastTask _ _ _ _ (Axis.beginStep_of_empty _ hes), Axis.expiresIf_contents same]
    · rw [execAll_cons (event tasks), execAll_append discards, ← hec]
      exact execAll_park_after together _ heb hes hei hv hpk

end Sys2Proof.Machine
end

section
/-! The overcurrent of an axis's driver over its whole event (3 R81, R82, 1 R28). -/

namespace Sys2Proof.Machine

/-- The axis whose driver has cut its pulse, which does not count; its position is lost (R82). -/
def Axis.cutShort (a : Axis) : Axis := { a with pulse := none, tripped := false, positionValid := false }

/-- What a free controller does when it takes its driver's overcurrent (R82, R28). -/
def Axis.overcurrentTasks (a : Axis) (pl : Pulse) : List Task :=
  if pl.endAction = .finish .restart then [.dropActive, .enterIdle false, .send .quiet, .wake]
  else if a.state = .stopping then [.dropActive, .dropWaiting, .enterFaulted .overcurrent]
  else [.dropActive, .enterFaulted .overcurrent]

theorem Axis.overcurrent_eq (table : Eight Entry) (a : Axis) (pl : Pulse) :
    Axis.overcurrent table a pl = Axis.run table (a.overcurrentTasks pl) a.cutShort := by
  unfold Axis.overcurrent Axis.overcurrentTasks
  split
  · rename_i h
    rw [if_pos h]
    rfl
  · rename_i h
    rw [if_neg h]
    split <;> rfl

section

variable {s : State} {n : AxisId} {a : Axis} {act : Active} {pl : Pulse}

/-- The driver detects an overcurrent exactly where an output is active. -/
theorem Axis.detect_eq (table : Eight Entry) (a : Axis) :
    a.detect table = if a.driven table = none then a else { a with tripped := true } := by
  unfold Axis.detect
  split <;> simp [*]

theorem coilPin_iff (ha : s.axis n = a) (c : Coil) : s.coilPin n c = true ↔ a.driven s.table = some c := by
  simp [State.coilPin, ha]

theorem exec_overcurrent (ha : s.axis n = a) (hp : a.pulse = some pl) :
    exec (.overcurrent n) s = .next
      (if a.free = true ∧ (a.detect s.table).tripped = true then s.runAxis n a.cutShort (a.overcurrentTasks pl)
      else s.setAxis n (a.detect s.table)) := by
  have pulse : (a.detect s.table).pulse = some pl := by rw [Axis.detect_eq]; split <;> exact hp
  have free : (a.detect s.table).free = a.free := by rw [Axis.detect_eq]; split <;> rfl
  have run : Axis.overcurrent s.table (a.detect s.table) pl = Axis.run s.table (a.overcurrentTasks pl) a.cutShort := by
    rw [Axis.overcurrent_eq, Axis.detect_eq]
    split <;> rfl
  simp only [exec, execOvercurrent, ha, pulse, free, run, Bool.and_eq_true]
  rfl

theorem exec_overcurrent_undetected (ha : s.axis n = a) (hp : a.pulse = some pl) (hd : a.driven s.table = none)
    (htr : a.tripped = false) : exec (.overcurrent n) s = .next s := by
  have back : s.setAxis n a = s := by rw [← ha, State.setAxis, State.axis, Eight.set_get]
  rw [exec_overcurrent ha hp, Axis.detect_eq, if_pos hd, if_neg (by simp [htr]), back]

theorem exec_overcurrent_latched (ha : s.axis n = a) (hp : a.pulse = some pl) (hf : a.free = false)
    (hd : a.driven s.table ≠ none) : exec (.overcurrent n) s = .next (s.setAxis n { a with tripped := true }) := by
  rw [exec_overcurrent ha hp, Axis.detect_eq, if_neg hd, if_neg (by simp [hf])]

theorem exec_overcurrent_taken (ha : s.axis n = a) (hp : a.pulse = some pl) (hf : a.free = true)
    (hd : a.tripped = true ∨ a.driven s.table ≠ none) :
    exec (.overcurrent n) s = .next (s.runAxis n a.cutShort (a.overcurrentTasks pl)) := by
  have tripped : (a.detect s.table).tripped = true := by
    rw [Axis.detect_eq]
    split
    · exact hd.resolve_right (not_not.2 ‹_›)
    · rfl
  rw [exec_overcurrent ha hp, if_pos ⟨hf, tripped⟩]

end

/-- Settles O52: what is detected is latched or taken, and the cut pulse's segment leaves as the state of the axis asks. -/
theorem anOvercurrentCutsThePulseAndFaults : Obligations.AnOvercurrentCutsThePulseAndFaults := by
  intro s n a b act pl ha hp hs hb
  have driven : (∃ c, s.coilPin n c = true) → a.driven s.table ≠ none := by
    rintro ⟨c, hc⟩
    rw [(coilPin_iff ha c).1 hc]
    simp
  refine ⟨fun hca hcb htr => exec_overcurrent_undetected ha hp ?_ htr,
    fun hf hc => exec_overcurrent_latched ha hp hf (driven hc), fun hf hd => ?_⟩
  · cases h : a.driven s.table with
    | none => rfl
    | some c =>
      have active := (coilPin_iff ha c).2 h
      cases c
      · exact absurd active (by simp [hca])
      · exact absurd active (by simp [hcb])
  · have e := exec_overcurrent_taken ha hp hf (hd.imp_right driven)
    have hbusy : a.busy = .none := Axis.busy_of_free hf
    have hbs : b.slot = none := by rw [hb]
    have drop : ∀ ts, execAll (gives n [act.seg]) (s.runAxis n a.cutShort (.dropActive :: ts)) =
        .next ((s.withGivenBack [act.seg]).runAxis n b ts) := fun ts => by
      rw [execAll_dropActive s n a.cutShort ts hs rfl hbusy, hb]
      rfl
    refine ⟨fun hst hne => ?_, fun hst hne => ?_, fun c left hr hw => ?_⟩
    · have tasks : a.overcurrentTasks pl = [.dropActive, .enterFaulted .overcurrent] := by
        simp [Axis.overcurrentTasks, hst, hne]
      rw [execAll_cons e, tasks, drop, State.runAxis_enterFaulted _ _ _ hbs, hb]
      rfl
    · have tasks : a.overcurrentTasks pl = [.dropActive, .dropWaiting, .enterFaulted .overcurrent] := by
        simp [Axis.overcurrentTasks, hst, hne]
      have hbw : b.waiting = a.waiting := by rw [hb]
      have hbb : b.busy = .none := by rw [hb]; exact hbusy
      rw [execAll_cons e, tasks, gives_cons, execAll_append (drop _), execAll_dropWaiting _ n b _ a.waiting hbw hbb,
        State.runAxis_enterFaulted _ _ _ (by exact hbs), ← State.withGivenBack_cons, hb]
      rfl
    · have tasks : a.overcurrentTasks pl = [.dropActive, .enterIdle false, .send .quiet, .wake] := by
        simp [Axis.overcurrentTasks, hr]
      rw [execAll_cons e, tasks, gives_cons, execAll_append (drop _), State.runAxis_enterIdle_silent _ _ _ hbs,
        State.runAxis_quiet]
      exact execAll_wake_given (s := { s with start := { s.start with quietSent := s.start.quietSent.set n true } })
        (ts := []) act.seg (by rw [hb]; exact hbusy) hbs rfl hw

end Sys2Proof.Machine
end

section
/-! What a segment resolves to against the position and the limits of its axis (2 R43 to R46). -/

namespace Sys2Proof.Machine

/-- Clipping takes the nearest position within the limits (R43, R44). -/
theorem clipTarget_eq {c : AxisConfig} (hc : c.loLimit.toNat ≤ c.hiLimit.toNat) (target : Int) :
    ((clipTarget c target).toNat : Int) = max (c.loLimit.toNat : Int) (min (c.hiLimit.toNat : Int) target) := by
  by_cases low : target < c.loLimit.toNat
  · rw [clipTarget, if_pos low]; omega
  · by_cases high : (c.hiLimit.toNat : Int) < target
    · rw [clipTarget, if_neg low, if_pos high]; omega
    · rw [clipTarget_toNat (by omega) (by omega)]; omega

theorem moveDirection_eq (value : Word16) :
    moveDirection value = if value.toInt < 0 then .reverse else .forward := by
  simp [moveDirection, BitVec.msb_eq_toInt]

/-- The direction toward a position, read from integers. -/
theorem toward_eq (position target : Word16) :
    toward position target = if (position.toNat : Int) < target.toNat then some .forward
      else if (target.toNat : Int) < position.toNat then some .reverse else none := by
  simp [toward]

/-- Settles O36: the clipped target of a MOVE or a GOTO is the nearest position within the limits. -/
theorem segmentsResolveAgainstTheAxis : Obligations.SegmentsResolveAgainstTheAxis := by
  intro a k hlim
  refine ⟨fun x target goal hv ht hg => ?_, fun x hv => ?_, fun x goal hv hg => ?_, fun x hv => ?_, rfl, fun x => rfl,
    fun x hv => ?_⟩
  · have clipped := clipTarget_eq hlim target
    rw [← hg] at clipped
    simp only [Axis.resolve, hv, if_true, ← ht, distance, clipped, moveDirection_eq]
  · simp only [Axis.resolve, hv, Bool.false_eq_true, if_false, moveDirection_eq]
  · have clipped := clipTarget_eq hlim (x.toNat : Int)
    rw [← hg] at clipped
    have moved : clipTarget a.config (x.toNat : Int) ≠ x ↔ goal ≠ (x.toNat : Int) := by
      rw [← clipped, ne_eq, ne_eq, ← BitVec.toNat_inj, Nat.cast_inj]
    simp only [Axis.resolve, hv, if_true, distance, toward_eq, clipped, moved]
  · simp only [Axis.resolve, hv, Bool.false_eq_true, if_false]
  · simp only [Axis.resolve, hv, if_true, distance, toward]

end Sys2Proof.Machine
end

section
/-! What a give returns, and CANCEL over its whole queue (2 R31, R50, R52, R53, 4 R89, R91). -/

namespace Sys2Proof.Machine

/-! ## The segment that a give returns -/

section

variable {a : Axis} {tag : Byte} {g : Segment} {before after : List Segment}

/-- Of the segments with a tag that hold a reference, a CANCEL gives back the oldest (R52). -/
theorem Axis.leaver_tagged (hw : a.waiting = before ++ g :: after) (hbefore : ∀ x ∈ before, x.taggedGive tag = false)
    (hg : g.taggedGive tag = true) : a.leaver (.tagged tag) = some g :=
  List.find?_eq_some_iff_append.2 ⟨hg, before, after, hw, by simpa using hbefore⟩

theorem Axis.left_tagged (hw : a.waiting = before ++ g :: after) (hbefore : ∀ x ∈ before, x.taggedGive tag = false)
    (hg : g.taggedGive tag = true) : a.left (.tagged tag) = { a with waiting := before ++ after } := by
  simp [Axis.left, hw, List.eraseP_append_right _ (by simpa using hbefore), hg]

end

/-- Settles O45: each kind of leaving names its segment, and the store lowers that segment's count. -/
theorem aGiveReturnsOneReference : Obligations.AGiveReturnsOneReference := by
  intro s t n a b g k ts ha hk hb ht
  obtain rfl : t = s.giveRef k := ht
  have gives : ∀ {what}, a.busy = .give what ts → a.leaver what = some g →
      exec (.give n) s = .next ((s.giveRef k).runAxis n (b.left what) ts) := fun hbusy hl => by
    subst ha hb
    exact exec_give s n hbusy hl hk
  refine ⟨fun rest hbusy hw => ?_, fun tag before after hbusy ht hw hnot => ?_,
    fun act hs hg => ⟨fun hbusy => ?_, fun hbusy => ?_⟩⟩
  · rw [gives hbusy (by simp [Axis.leaver, hw]), hb]
    simp [Axis.left, hw]
  · have first : ∀ x ∈ before, x.taggedGive tag = false := fun x hx => by
      rcases hnot x hx with h | h <;> simp [Segment.taggedGive, h]
    have tagged : g.taggedGive tag = true := by simp [Segment.taggedGive, ht, hk]
    rw [gives hbusy (Axis.leaver_tagged hw first tagged),
      Axis.left_tagged (a := b) (hw := by rw [hb]; exact hw) first tagged]
  · rw [gives hbusy (by simp [Axis.leaver, hs, hg]), hb]
    rfl
  · rw [gives hbusy (by simp [Axis.leaver, hs, hg]), hb]
    subst hg
    simp only [Axis.left, Axis.doneAndClear, hs, Segment.donePost]
    cases act.seg.notify <;> simp [Axis.clearSlot, Axis.post]

/-! ## CANCEL -/

/-- Whether the active segment carries a tag. -/
def Axis.activeCarries (a : Axis) (tag : Byte) : Bool := a.slot.any fun act => act.seg.tag == tag

/-- The end of a CANCEL: what still carries the tag leaves with no reference, and the reply counts all that went (R52). -/
theorem State.runAxis_cancel_end (s : State) (n : AxisId) (a : Axis) (p : Port) (tag : Byte) (removed : Nat)
    (h : ∀ g ∈ a.waiting, g.taggedGive tag = false) :
    s.runAxis n a [.cancel p tag removed] =
      (s.setAxis n { a with waiting := a.waiting.filter fun g => g.tag != tag }).reply p
        (replyOk (cancelData (removed + a.waiting.countP fun g => g.tag == tag) (a.activeCarries tag))) := by
  have none : a.waiting.any (Segment.taggedGive tag) = false := by simpa using h
  simp only [State.runAxis, Axis.run, Axis.doTask, none, Bool.false_eq_true, if_false, Axis.activeCarries]
  cases a.slot <;> rfl

/-- A CANCEL that has passed `before` and has `q` still to walk, once the store has taken its gives (R52, R91). -/
theorem execAll_cancel (n : AxisId) (p : Port) (tag : Byte) (q : List Segment) :
    ∀ (s : State) (a : Axis) (before : List Segment) (removed : Nat), a.busy = .none → a.waiting = before ++ q →
      (∀ g ∈ before, g.taggedGive tag = false) →
      execAll (gives n (q.filter fun g => g.tag == tag)) (s.runAxis n a [.cancel p tag removed]) =
        .next (((s.withGivenBack (q.filter fun g => g.tag == tag)).setAxis n
          { a with waiting := a.waiting.filter fun g => g.tag != tag }).reply p
            (replyOk (cancelData (removed + a.waiting.countP fun g => g.tag == tag) (a.activeCarries tag)))) := by
  induction q with
  | nil =>
    intro s a before removed _ hw hbefore
    rw [List.append_nil] at hw
    rw [List.filter_nil, gives_nil, execAll_nil, State.withGivenBack_nil,
      State.runAxis_cancel_end s n a p tag removed (hw ▸ hbefore)]
  | cons g rest ih =>
    intro s a before removed hb hw hbefore
    cases hg : g.taggedGive tag with
    | true =>
      obtain ⟨htag, hprofile⟩ : (g.tag == tag) = true ∧ g.profile.isSome = true := by
        simpa [Segment.taggedGive] using hg
      obtain ⟨k, hk⟩ := Option.isSome_iff_exists.1 hprofile
      have asks : Axis.doTask s.table a (.cancel p tag removed) =
          .gives a (.tagged tag) [.cancel p tag (removed + 1)] := by
        simp [Axis.doTask, hw, hg]
      have given := execAll_gives s n a g [] a _ _ _ k asks (Axis.leaver_tagged hw hbefore hg) hk
      rw [Axis.left_tagged (a := { a with busy := .none }) hw hbefore hg, ← hb, List.append_nil] at given
      have kept : (before ++ rest).filter (fun x => x.tag != tag) = a.waiting.filter fun x => x.tag != tag := by
        have : (g.tag != tag) = false := by simpa using htag
        simp [hw, this]
      have count : removed + 1 + (before ++ rest).countP (fun x => x.tag == tag) =
          removed + a.waiting.countP fun x => x.tag == tag := by
        simp only [hw, List.countP_append, List.countP_cons, htag, if_true]
        omega
      rw [List.filter_cons, if_pos htag, gives_cons, gives_cons_some _ _ hk, gives_nil, execAll_append given,
        ih (s.withGivenBack [g]) { a with waiting := before ++ rest } before (removed + 1) hb rfl hbefore,
        ← State.withGivenBack_cons]
      dsimp only
      rw [kept, count]
      rfl
    | false =>
      have passed := ih s a (before ++ [g]) removed hb (by simp [hw])
        (by simpa [or_imp, forall_and] using ⟨hbefore, hg⟩)
      cases htag : g.tag == tag with
      | false => simpa only [List.filter_cons, htag, Bool.false_eq_true, if_false] using passed
      | true =>
        have hk : g.profile = none := by simpa [Segment.taggedGive, htag] using hg
        simpa only [List.filter_cons, htag, if_true, gives_cons_none _ _ hk, State.withGivenBack_cons_none _ _ hk]
          using passed

/-- Settles O37: the whole queue is walked with nothing passed and nothing removed before. -/
theorem cancelRemovesEveryWaitingSegmentOfATag : Obligations.CancelRemovesEveryWaitingSegmentOfATag := by
  intro s n p a tag match_ removed ha ho hr hm
  have e : exec (.cancel n) s = .next (s.runAxis n a.taken [.cancel p tag 0]) := by
    simp only [exec, execCancel, ha, ho]
  have carries : flagByte (a.activeCarries tag) false false false = match_ := by
    rw [hm, Axis.activeCarries]
    cases a.slot with
    | none => simp [flagByte]
    | some act => by_cases h : act.seg.tag = tag <;> simp [h, flagByte]
  rw [execAll_cons e, hr, execAll_cancel n p tag a.waiting s a.taken [] 0 (Axis.busy_of_offer (a := a) ho) rfl (by simp),
    ← carries, ← List.countP_eq_length_filter, Nat.zero_add]
  rfl

end Sys2Proof.Machine
end

section
/-! Segments that join an axis or leave it between its steps: QUEUE, the admission take, SKIP, STOP and the actions of the claim
unit, and the PARK segment (2 R35 to R50, 3 R73 to R77, 4 R89 to R92, 5 R107 to R109). -/

namespace Sys2Proof.Machine

/-! ## What a segment that joins meets -/

@[simp] theorem Axis.beginStep_waiting (table : Eight Entry) (a : Axis) :
    (Axis.beginStep table a).waiting = a.waiting := by
  unfold Axis.beginStep
  repeat' split
  all_goals rfl

@[simp] theorem Axis.activated_waiting (table : Eight Entry) (a : Axis) (g : Segment) (rest : List Segment)
    (r : Resolved) : (a.activated table g rest r).waiting = rest := by
  simp [Axis.activated]

/-- Going on reads the queue that it is given, not the one that the axis holds. -/
theorem Axis.goesOn_setWaiting (table : Eight Entry) (a : Axis) (q w : List Segment) :
    Axis.goesOn table q { a with waiting := w } = a.goesOn table q := by
  cases q <;> rfl

theorem State.runAxis_replyLength (s : State) (n : AxisId) (a : Axis) (p : Port) :
    s.runAxis n a [.replyLength p] = (s.setAxis n a).reply p ⟨.ok, [BitVec.ofNat 8 a.waiting.length]⟩ := rfl

/-- A segment joins the queue of an axis that is not IDLE, and the reply counts it (R40). -/
theorem State.runAxis_join (s : State) (n : AxisId) (a : Axis) (p : Port) (g : Segment) (h : a.state ≠ .idle) :
    s.runAxis n { a with waiting := a.waiting ++ [g] } [.wake, .replyLength p] =
      (s.setAxis n { a with waiting := a.waiting ++ [g] }).reply p
        ⟨.ok, [BitVec.ofNat 8 (a.waiting.length + 1)]⟩ := by
  rw [State.runAxis_made (b := { a with waiting := a.waiting ++ [g] }) (h := by simp [Axis.doTask, h]),
    State.runAxis_replyLength, List.length_append, List.length_singleton]

/-! ## QUEUE -/

/-- A DWELL that QUEUE describes joins where there is room, and may activate in the same event (R39, R40). -/
theorem exec_queue_dwell {s : State} {n : AxisId} {p : Port} {a : Axis} {q : QueueArgs} {g : Segment} (ha : s.axis n = a)
    (ho : a.offer = some (.request p (.queue q))) (h1 : a.state ≠ .off) (h2 : a.state ≠ .faulted)
    (hg : segmentOf a.config q = some g) (hroom : a.waiting.length < 4) (hd : g.isDwell = true) :
    exec (.queue n) s =
      .next (s.runAxis n { a.taken with waiting := a.waiting ++ [g] } [.wake, .replyLength p]) := by
  have room : ¬ Config.queueDepth ≤ a.waiting.length := Nat.not_le.2 hroom
  simp only [exec, execQueue, ha, ho, hg, room, if_false, hd, if_true]

/-- Settles O34: the checks in their order; a DWELL has a count of its own, and nothing to ask the store for. -/
theorem aQueueIsRefusedJoinsOrAsks : Obligations.AQueueIsRefusedJoinsOrAsks := by
  intro s n p a b q ha ho hb
  obtain rfl : b = a.taken := hb
  refine ⟨fun hs => ?_, fun hs => ?_, fun h1 h2 => ⟨fun hg => ?_, fun g hg => ⟨fun hfull => ?_, fun hroom hd => ?_,
    fun hroom hd hs => ?_, fun hs hslot hw periods hj => ?_⟩⟩⟩
  · simp only [exec, execQueue, ha, ho, hs, State.axisAnswers_eq ha]
    rfl
  · simp only [exec, execQueue, ha, ho, hs, State.axisAnswers_eq ha]
    rfl
  · simp only [exec, execQueue, ha, ho, hg, State.axisAnswers_eq ha]
    rfl
  · have full : Config.queueDepth ≤ a.waiting.length := hfull
    simp only [exec, execQueue, ha, ho, hg, full, if_true, State.axisAnswers_eq ha]
    rfl
  · have room : ¬ Config.queueDepth ≤ a.waiting.length := Nat.not_le.2 hroom
    simp only [exec, execQueue, ha, ho, hg, room, if_false, hd, Bool.false_eq_true]
  · rw [exec_queue_dwell ha ho h1 h2 hg hroom hd]
    exact congrArg _ (State.runAxis_join s n a.taken p g hs)
  · have hd : g.isDwell = true := by simp [Segment.isDwell, hj]
    have resolved : a.resolve g.job = some ⟨none, periods.toNat, false⟩ := by simp [Axis.resolve, hj]
    have activates := State.runAxis_wake_step s n { a.taken with waiting := a.waiting ++ [g] } g [.replyLength p] []
      ⟨none, periods.toNat, false⟩ (by simp [hw]) hslot hs resolved (.inr hd)
    rw [exec_queue_dwell ha ho h1 h2 hg (by simp [hw]) hd, activates, State.runAxis_replyLength, Axis.activated_waiting]
    rfl

/-! ## The admission take -/

/-- The store admits a segment that cannot run in reverse, or fits its rate (R39, R92). -/
theorem admissionAnswer_of_fit {e : Entry} {g : Segment} {h : Shape} (hh : e.state.shape = some h)
    (hfit : g.reversible = false ∨ reverseTotal h ≤ period g.rate) : admissionAnswer e g = .ok := by
  rcases hfit with hrev | hle
  · simp [admissionAnswer, hh, hrev]
  · simp [admissionAnswer, hh, fits, hle]

section

variable {s : State} {n : AxisId} {p : Port} {a : Axis} {g : Segment} {k : ProfileId}

/-- A refused admission take answers the QUEUE, and the controller is free again (R39). -/
theorem exec_admissionTake_refused {st : Status} (ha : s.axis n = a) (hbusy : a.busy = .admission p g)
    (hk : g.profile = some k) (h : admissionAnswer (s.table.get k) g = st) (hne : st ≠ .ok) :
    exec (.admissionTake n) s = .next ((s.setAxis n { a with busy := .none }).reply p ⟨st, []⟩) := by
  simp only [exec, execAdmissionTake, ha, hbusy, hk, h, hne, if_false]
  rfl

/-- An admission take that the store answers with OK raises the count, and the segment joins (R39, R40). -/
theorem exec_admissionTake_ok (ha : s.axis n = a) (hbusy : a.busy = .admission p g) (hk : g.profile = some k)
    (h : admissionAnswer (s.table.get k) g = .ok) :
    exec (.admissionTake n) s = .next ((s.takeRef k).runAxis n
      { a with busy := .none, waiting := a.waiting ++ [g] } [.wake, .replyLength p]) := by
  simp only [exec, execAdmissionTake, ha, hbusy, hk, h, if_true]

end

/-- Settles O35: by the store's answer, and on an IDLE axis by the chain of heads behind which the segment has joined. -/
theorem anAdmissionTakeAdmitsOrRefuses : Obligations.AnAdmissionTakeAdmitsOrRefuses := by
  intro s t n p a b g k ha hbusy hk hb ht
  obtain rfl : t = s.takeRef k := ht
  refine ⟨fun hnone => ?_, fun h hh => ⟨fun hrev hlong => ?_, fun hfit => ?_⟩⟩
  · rw [hb]
    exact exec_admissionTake_refused ha hbusy hk (by simp only [admissionAnswer, hnone]) (by decide)
  · have long : fits h g.rate = false := decide_eq_false (Nat.not_le.2 hlong)
    rw [hb]
    exact exec_admissionTake_refused ha hbusy hk (by simp [admissionAnswer, hh, hrev, long]) (by decide)
  · have e := exec_admissionTake_ok ha hbusy hk (admissionAnswer_of_fit hh hfit)
    refine ⟨fun hs => ?_, fun hs hslot c left hgo => ?_⟩
    · rw [e, hb]
      exact congrArg _ (State.runAxis_join (s.takeRef k) n { a with busy := .none } p g hs)
    · obtain ⟨x, hx⟩ : ∃ x : Axis, x = { b with waiting := a.waiting ++ [g] } := ⟨_, rfl⟩
      have wakes : x.wakes (s.takeRef k).table = (c, left) := by
        rw [Axis.wakes, hx, if_neg (by simp), Axis.goesOn_setWaiting, hgo]
      have chain := execAll_wake (s.takeRef k) n [.replyLength p] x (by rw [hx, hb]) (by rw [hx, hb]; exact hslot)
        (by rw [hx, hb]; exact hs)
      rw [wakes, State.runAxis_replyLength, hx, hb] at chain
      rw [execAll_cons e]
      exact chain

/-! ## SKIP -/

/-- SKIP of an axis with an active segment and no pulse in progress discards it and goes on (R74). -/
theorem exec_skip_now {s : State} {n : AxisId} {p : Port} {a : Axis} (ha : s.axis n = a)
    (ho : a.offer = some (.request p .skip)) (hs : a.state = .running ∨ a.state = .held ∨ a.state = .armed)
    (hp : a.pulse = none) :
    exec (.skip n) s = .next (s.runAxis n a.taken [.dropActive, .next, .send (.reply p (replyOk []))]) := by
  rcases hs with h | h | h <;> simp only [exec, execSkip, ha, ho, h, hp, State.skipNow]

/-- Settles O39: by the state and the pulse; between pulses the segment is discarded and the chain of heads follows. -/
theorem skipEndsTheActiveSegment : Obligations.SkipEndsTheActiveSegment := by
  intro s n p a b ha ho hb
  obtain rfl : b = a.taken := hb
  refine ⟨fun hs => ?_, fun hs => ?_, fun pl hs hp => ⟨fun he => ?_, fun he => ?_⟩,
    fun act b' c left hs hp hslot hb' hgo => ?_⟩
  · simp only [exec, execSkip, ha, ho, hs, State.axisAnswers_eq ha]
    rfl
  · rcases hs with h | h | h
    all_goals
      simp only [exec, execSkip, ha, ho, h, State.axisAnswers_eq ha]
      rfl
  · simp only [exec, execSkip, ha, ho, hs, hp, State.axisAnswers_eq ha]
    rfl
  · simp only [exec, execSkip, ha, ho, hs, hp, he]
    rfl
  · obtain rfl : b' = a.taken.clearSlot := hb'
    have hbusy : a.taken.clearSlot.busy = .none := Axis.busy_of_offer (a := a) ho
    have same := sameContents_withGivenBack s [act.seg]
    have chain := execAll_next n [.send (.reply p (replyOk []))] a.waiting (s.withGivenBack [act.seg]) a.taken.clearSlot
      rfl hbusy rfl (by rcases hs with h | h | h <;> simp [h]) (by rcases hs with h | h | h <;> simp [h])
    rw [Axis.goesOn_contents same, hgo, ← State.withGivenBack_cons] at chain
    rw [execAll_cons (exec_skip_now ha ho hs hp), gives_cons,
      execAll_append (execAll_dropActive s n a.taken _ hslot hp hbusy), chain]
    rfl

/-! ## STOP and the actions of the claim unit between pulses -/

/-- The axis once an action has ended its work between pulses: nothing waits, nothing is active, and it is IDLE (R76, R77). -/
def Axis.workEnded (a : Axis) : Axis :=
  { a with
    waiting := [], slot := none, truncReported := false, dwellMark := false, state := .idle, faultKind := none
    posts := a.posts ++ [⟨.idle, 0⟩] }

/-- The discard of all work between pulses and the entry to IDLE, once the store has taken the gives (R33, R34, R76). -/
theorem execAll_endWork {act : Active} (s : State) (n : AxisId) (a : Axis) (ts : List Task) (hs : a.slot = some act)
    (hp : a.pulse = none) (hb : a.busy = .none) :
    execAll (gives n (a.waiting ++ [act.seg]))
        (s.runAxis n a (.dropWaiting :: .dropActive :: .enterIdle true :: ts)) =
      .next ((s.withGivenBack (a.waiting ++ [act.seg])).runAxis n a.workEnded ts) := by
  rw [execAll_dropAll s n a _ hs hp hb, State.runAxis_enterIdle_notice _ _ _ rfl]
  rfl

/-- Between pulses a STOP-type and a PARK-type action end the axis's work; a PARK-type one then decides on a PARK segment. -/
theorem Axis.endTasks_between {a : Axis} {why : Stopping}
    (hs : a.state = .running ∨ a.state = .held ∨ a.state = .armed) (hp : a.pulse = none) :
    a.endTasks why =
      .dropWaiting :: .dropActive :: .enterIdle true :: (if why = .park then [Task.park] else []) := by
  cases why <;> rcases hs with h | h | h <;> simp [Axis.endTasks, Axis.stopTasks, Axis.parkTasks, h, hp]

/-- Settles O41: both types of action end the axis's work, and no PARK segment is placed. -/
theorem stopsAndActionsBetweenPulsesEndAllWork : Obligations.StopsAndActionsBetweenPulsesEndAllWork := by
  intro s n m a act why ha ho hw hs hp hslot hwhy
  have unplaced : ∀ t : State,
      t.runAxis n a.taken.workEnded ((if why = .park then [Task.park] else []) ++ m.answerTasks) =
        (t.setAxis n a.taken.workEnded).answered n m := fun t => by
    split
    · have hv : a.positionValid = false := hwhy.resolve_left (by simp [*])
      rw [List.singleton_append, State.runAxis_park_unknown (a := a.taken.workEnded) _ _ _ hv, State.runAxis_answerTasks]
    · exact State.runAxis_answerTasks ..
  rw [execAll_cons (exec_endsWork ha ho hw), Axis.endTasks_between hs hp]
  exact (execAll_endWork s n a.taken _ hslot hp (Axis.busy_of_offer (a := a) ho)).trans (congrArg _ (unplaced _))

/-! ## The PARK segment of an action -/

/-- A PARK segment placed and the answer sent, on an IDLE axis whose position is known (R107, R109). -/
theorem execAll_park_answered {s : State} {n : AxisId} {a c : Axis} {left : List Segment} (m : AxisMsg)
    (hb : a.busy = .none) (hs : a.slot = none) (h1 : a.state = .idle) (hv : a.positionValid = true)
    (hpk : a.parks s.table = (c, left)) :
    execAll (.parkTake n :: gives n left) (s.runAxis n a (.park :: m.answerTasks)) =
      .next ((((s.takeRef a.config.parkProfile).withGivenBack left).setAxis n c).answered n m) := by
  have placed := execAll_park s n a m.answerTasks hb hs h1 hv
  rwa [hpk, State.runAxis_answerTasks] at placed

/-- Settles O42: the PARK segment is placed at once, or once the action has ended the axis's work. -/
theorem aParkIsPlacedWhereThePositionIsKnown : Obligations.AParkIsPlacedWhereThePositionIsKnown := by
  intro s n m a b c left taken ha ho hw hv hb ht
  obtain rfl : b = a.taken := hb
  obtain rfl : taken = fun s => s.takeRef a.config.parkProfile := ht
  have hbusy := Axis.busy_of_offer ho
  have e := exec_endsWork ha ho hw
  refine ⟨fun hs hslot hpk => ?_, fun act gone hs hp hslot hgone hpk => ?_⟩
  · have tasks : a.endTasks .park = [.park] := by simp [Axis.endTasks, Axis.parkTasks, hs]
    rw [execAll_cons e, tasks]
    exact execAll_park_answered m (a := a.taken) hbusy hslot hs hv hpk
  · have ends := execAll_endWork s n a.taken ([.park] ++ m.answerTasks) hslot hp hbusy
    have same := sameContents_withGivenBack s gone
    rw [execAll_cons e, Axis.endTasks_between hs hp, hgone]
    rw [← Axis.parks_contents same, hgone] at hpk
    exact (execAll_append ends).trans (execAll_park_answered m (a := a.taken.workEnded) hbusy rfl rfl hv hpk)

end Sys2Proof.Machine
end

section
/-! The output that a pulse drives, and the passing of one du (3 R57, R60 to R62, R65, R81, 7 R123, 11 R180, R186). -/

namespace Sys2Proof.Machine

/-! ## The parts of a pulse -/

theorem EntryState.shapeOrNone_of_shape {e : EntryState} {h : Shape} (hh : e.shape = some h) : e.shapeOrNone = h := by
  simp only [EntryState.shapeOrNone, hh]

theorem Segment.shapeIn_of_shape {g : Segment} {k : ProfileId} {table : Eight Entry} {h : Shape}
    (hk : g.profile = some k) (hh : (table.get k).state.shape = some h) : g.shapeIn table = h := by
  simp only [Segment.shapeIn, hk, EntryState.shapeOrNone_of_shape hh]

/-- An axis whose driver has cut nothing drives what its pulse in progress drives (R61, R62, R81). -/
theorem Axis.driven_of_pulse (table : Eight Entry) {a : Axis} {pl : Pulse} {act : Active} (hp : a.pulse = some pl)
    (hs : a.slot = some act) (htr : a.tripped = false) : a.driven table = pl.driven (act.seg.shapeIn table) := by
  simp only [Axis.driven, hp, hs, htr]

/-- A pulse that has reached its cut drives nothing (R65). -/
theorem Pulse.driven_of_cut {pl : Pulse} (h : Shape) (hcut : pl.cutAt ≤ pl.elapsed) : pl.driven h = none :=
  if_neg (Nat.not_lt.2 hcut)

theorem Pulse.driven_forward {pl : Pulse} (h : Shape) (hd : pl.direction = .forward) (hcut : pl.elapsed < pl.cutAt) :
    pl.driven h = forwardDrive h pl.mainPin pl.elapsed := by
  simp only [Pulse.driven, hcut, if_true, hd]

theorem Pulse.driven_reverse {pl : Pulse} (h : Shape) (hd : pl.direction = .reverse) (hcut : pl.elapsed < pl.cutAt) :
    pl.driven h = reverseDrive h pl.mainPin pl.elapsed := by
  simp only [Pulse.driven, hcut, if_true, hd]

section

variable {h : Shape} {m c : Coil} {t : Nat}

/-- Before its end a forward pulse drives main_pin in the main part and at the start of each tail cycle (R61). -/
theorem forwardDrive_of_lt (ht : t < forwardTotal h) :
    forwardDrive h m t =
      if t < h.fwdMain ∨ (t - h.fwdMain) % 4 < (if h.fwdTailHalf then 2 else 1) then some m else none := by
  unfold forwardDrive
  by_cases hmain : t < h.fwdMain
  · rw [if_pos hmain, if_pos (.inl hmain)]
  · simp only [hmain, if_false, ht, true_and, false_or]

/-- One coil is driven under a condition, and none without it. -/
theorem drive_if_iff {P : Prop} [Decidable P] : (if P then some m else none) = some c ↔ c = m ∧ P := by
  rw [Option.ite_none_right_eq_some, Option.some_inj, and_comm, eq_comm]

theorem reverseDrive_lead (ht : t < h.revLead) : reverseDrive h m t = some m.other := if_pos ht

theorem reverseDrive_main (h1 : h.revLead ≤ t) (h2 : t < h.revLead + h.revMain) : reverseDrive h m t = some m := by
  rw [reverseDrive, if_neg (by omega), if_pos h2]

theorem reverseDrive_final (h1 : h.revLead + h.revMain ≤ t) (h2 : t < h.revLead + h.revMain + h.revFinal) :
    reverseDrive h m t = some m.other := by
  rw [reverseDrive, if_neg (by omega), if_neg (by omega), if_pos h2]

/-- Each tail cycle of a reverse pulse drives main_pin in its first half (R62). -/
theorem reverseDrive_tail (h1 : h.revLead + h.revMain + h.revFinal ≤ t) (h2 : t < reverseTotal h) :
    reverseDrive h m t = if (t - (h.revLead + h.revMain + h.revFinal)) % 4 < 2 then some m else none := by
  rw [reverseDrive, if_neg (by omega), if_neg (by omega), if_neg (by omega)]
  simp only [h2, true_and]

end

/-- Settles O46: at each du the pulse is in one part, and the drive of that part is the coil's. -/
theorem pulsesDriveTheirParts : Obligations.PulsesDriveTheirParts := by
  intro s n pl act k h t c hp hs htr hk hh ht
  subst ht
  have drives : (s.axis n).driven s.table = pl.driven h := by
    rw [Axis.driven_of_pulse s.table hp hs htr, Segment.shapeIn_of_shape hk hh]
  have active : s.coilPin n c = true ↔ pl.driven h = some c := by rw [coilPin_iff rfl, drives]
  refine ⟨fun hcut => ?_, fun hd hcut hend => ?_, fun main final tail hd hcut hmain hfinal htail hend => ?_⟩
  · rw [← Bool.not_eq_true, active, Pulse.driven_of_cut h hcut]
    exact nofun
  · have total : pl.elapsed < forwardTotal h := Nat.lt_of_lt_of_le hcut hend
    rw [active, Pulse.driven_forward h hd hcut, forwardDrive_of_lt total, drive_if_iff]
  · subst hmain hfinal
    rw [active, Pulse.driven_reverse h hd hcut]
    refine ⟨fun h1 => ?_, fun h1 h2 => ?_, fun h1 h2 => ?_, fun h1 => ?_⟩
    · rw [reverseDrive_lead h1, Option.some_inj, eq_comm]
    · rw [reverseDrive_main h1 h2, Option.some_inj, eq_comm]
    · rw [reverseDrive_final h1 h2, Option.some_inj, eq_comm]
    · have total : pl.cutAt = reverseTotal h := hend.trans htail
      rw [reverseDrive_tail h1 (total ▸ hcut), drive_if_iff]

/-! ## A step with no command waiting -/

theorem step_of_no_pending {s : State} (h : s.pending = []) : step s = .next (s.advance 1) := by
  simp only [step, h]

/-- Settles O5: the step is the passing of one du, which each block's own measures show. -/
theorem anIdleStepPassesOneDriveUnit : Obligations.AnIdleStepPassesOneDriveUnit := fun s hs =>
  ⟨s.advance 1, step_of_no_pending hs, fun n => State.advance_axis s n 1, fun n => State.advance_entry s n 1,
    State.advance_ports s 1, State.advance_store s 1, State.advance_notice s 1, State.advance_pending s 1,
    rfl, rfl, rfl⟩

end Sys2Proof.Machine
end

section
/-! PAUSE and RESUME: the causes of a hold and what they make of an axis (3 R67 to R71). -/

namespace Sys2Proof.Machine

/-! ## A change of a hold cause -/

section

variable (table : Eight Entry) {a : Axis}

/-- Between pulses a RUNNING axis with a hold cause enters HELD (R67, R69). -/
theorem Axis.holdChanged_enters (hc : a.holdCause = true) (hs : a.state = .running) (hp : a.pulse = none) :
    Axis.holdChanged table a = { a with state := .held } := by
  rw [Axis.holdChanged, if_pos hc, if_pos ⟨hs, hp⟩]

/-- A hold cause waits for the end of a pulse, and changes no state but RUNNING (R67, R69). -/
theorem Axis.holdChanged_waits (hc : a.holdCause = true) (h : a.state ≠ .running ∨ a.pulse ≠ none) :
    Axis.holdChanged table a = a := by
  rw [Axis.holdChanged, if_pos hc, if_neg (not_and_or.2 h)]

/-- A HELD axis with no hold cause left is RUNNING and may begin its next step (R69). -/
theorem Axis.holdChanged_leaves (hc : a.holdCause = false) (hs : a.state = .held) :
    Axis.holdChanged table a = Axis.beginStep table { a with state := .running } := by
  rw [Axis.holdChanged, if_neg (by simp [hc]), if_pos hs]

theorem Axis.holdChanged_unheld (hc : a.holdCause = false) (hs : a.state ≠ .held) : Axis.holdChanged table a = a := by
  rw [Axis.holdChanged, if_neg (by simp [hc]), if_neg hs]

end

/-! ## The two requests -/

section

variable {s : State} {n : AxisId} {p : Port} {a c : Axis}

/-- An axis in OFF refuses PAUSE and RESUME (R70, R71). -/
theorem exec_pause_off (ha : s.axis n = a) (ho : a.offer = some (.request p .pause)) (hs : a.state = .off) :
    exec (.pause n) s = .next ((s.setAxis n a.taken).reply p ⟨.axisOff, []⟩) := by
  simp only [exec, execPause, ha, ho, hs, State.axisAnswers_eq ha]
  rfl

theorem exec_resume_off (ha : s.axis n = a) (ho : a.offer = some (.request p .resume)) (hs : a.state = .off) :
    exec (.resume n) s = .next ((s.setAxis n a.taken).reply p ⟨.axisOff, []⟩) := by
  simp only [exec, execResume, ha, ho, hs, State.axisAnswers_eq ha]
  rfl

/-- Outside OFF a PAUSE sets pause_flag, and the hold takes effect (R70). -/
theorem exec_pause (ha : s.axis n = a) (ho : a.offer = some (.request p .pause)) (hs : a.state ≠ .off)
    (hc : Axis.holdChanged s.table { a.taken with pauseFlag := true } = c) :
    exec (.pause n) s = .next ((s.setAxis n c).reply p ⟨.ok, []⟩) := by
  simp only [exec, execPause, ha, ho, hc]
  rfl

/-- Outside OFF a RESUME clears pause_flag, and the hold ends where that was its last cause (R71). -/
theorem exec_resume (ha : s.axis n = a) (ho : a.offer = some (.request p .resume)) (hs : a.state ≠ .off)
    (hc : Axis.holdChanged s.table { a.taken with pauseFlag := false } = c) :
    exec (.resume n) s = .next ((s.setAxis n c).reply p ⟨.ok, []⟩) := by
  simp only [exec, execResume, ha, ho, hc]
  rfl

end

/-- Settles O38: pause_flag set is a hold cause, and pause_flag clear leaves the one that halt_seen records. -/
theorem pauseHoldsAndResumeReleases : Obligations.PauseHoldsAndResumeReleases := by
  intro s n p a b ha hb
  obtain rfl : b = a.taken := hb
  refine ⟨fun ho => ⟨exec_pause_off ha ho, fun hs hp => ?_, fun hoff hwait => ?_⟩,
    fun ho => ⟨exec_resume_off ha ho, fun hs hhalt => ?_, fun hoff hs hhalt => ?_, fun hoff hhalt hwait => ?_⟩⟩
  · exact exec_pause ha ho (by simp [hs]) (Axis.holdChanged_enters s.table rfl hs hp)
  · exact exec_pause ha ho hoff (Axis.holdChanged_waits s.table rfl hwait)
  · exact exec_resume ha ho (by simp [hs]) (Axis.holdChanged_leaves s.table hhalt hs)
  · exact exec_resume ha ho hoff (Axis.holdChanged_unheld s.table hhalt hs)
  · exact exec_resume ha ho hoff (Axis.holdChanged_waits s.table hhalt hwait)

end Sys2Proof.Machine
end

section
/-! The profile requests of the ports: DEFINE_PROFILE, DELETE_PROFILE and READ_PROFILE (4 R85, R93 to R95). -/

namespace Sys2Proof.Machine

/-! ## The seven fields -/

/-- The seven field bytes give the one shape that has their values, where these are choices of Table 4-1 (R85, R93). -/
theorem shapeOf_eq_some_iff {f : ProfileArgs} {h : Shape} : shapeOf f = some h ↔
    h.inChoices ∧ h = ⟨f.fwdMain.toNat, f.fwdTailCount.toNat, h.fwdTailHalf, f.revLead.toNat, f.revMain.toNat,
      f.revFinal.toNat, f.revTailCount.toNat⟩ ∧ f.fwdTailDuty.toNat = if h.fwdTailHalf then 1 else 0 := by
  constructor
  · intro e
    refine ⟨shapeOf_inChoices e, ?_⟩
    unfold shapeOf at e
    split at e
    · rename_i hc
      cases e
      simp only [Bool.and_eq_true] at hc
      obtain ⟨⟨⟨⟨⟨-, hduty⟩, -⟩, -⟩, -⟩, -⟩ := hc
      have hd : f.fwdTailDuty.toNat = 0 ∨ f.fwdTailDuty.toNat = 1 := by simpa using hduty
      rcases hd with hd | hd <;> simp [hd]
    · cases e
  · rintro ⟨⟨hmain, htail, hlead, hrevMain, hfinal, hrevTail⟩, hfields, hduty⟩
    rw [hfields] at hmain htail hlead hrevMain hfinal hrevTail
    have hhalf : (f.fwdTailDuty.toNat == 1) = h.fwdTailHalf := by rw [hduty]; cases h.fwdTailHalf <;> rfl
    have hchoice : [0, 1].contains f.fwdTailDuty.toNat = true := by rw [hduty]; cases h.fwdTailHalf <;> rfl
    rw [hfields, shapeOf, if_pos, hhalf]
    simp only [Bool.and_eq_true, List.contains_iff_mem] at hchoice ⊢
    exact ⟨⟨⟨⟨⟨⟨hmain, htail⟩, hchoice⟩, hlead⟩, hrevMain⟩, hfinal⟩, hrevTail⟩

/-! ## A change of an entry -/

/-- What DEFINE_PROFILE and DELETE_PROFILE make of a request whose bytes are right: entry 0 and an entry in use refuse it, and
any other entry takes the new state (R93, R94). -/
def State.entryChanged (s : State) (p : Port) (k : ProfileId) (x : EntryState) : State :=
  if k = 0 then s.storeReply p (refusal .profileReadOnly)
  else if 0 < (s.table.get k).refCount then s.storeReply p (refusal .profileInUse)
  else (s.setTable k { s.table.get k with state := x }).storeReply p (replyOk [])

section

variable {s : State} {p : Port} {k : ProfileId} {entry : Byte}

/-- The two refusals of a changed entry in their order, and the change itself (R93, R94). -/
theorem exec_of_entryChanged {c : Instr} {x : EntryState} (e : exec c s = .next (s.entryChanged p k x)) :
    (k = 0 → exec c s = .next (s.storeReply p (refusal .profileReadOnly))) ∧
    (k ≠ 0 → 0 < (s.table.get k).refCount → exec c s = .next (s.storeReply p (refusal .profileInUse))) ∧
    (k ≠ 0 → (s.table.get k).refCount = 0 →
      exec c s = .next ((s.setTable k ⟨x, 0⟩).storeReply p (replyOk []))) := by
  rw [e, State.entryChanged]
  refine ⟨fun hk => ?_, fun hk hr => ?_, fun hk hr => ?_⟩
  · rw [if_pos hk]
  · rw [if_neg hk, if_pos hr]
  · simp only [if_neg hk, hr, Nat.lt_irrefl, if_false]

/-! ## The three requests -/

theorem exec_defineProfile_badArgument {f : ProfileArgs} (hin : s.store.inbox.get p = some (.defineProfile entry f))
    (hbad : axisOf entry = none ∨ shapeOf f = none) :
    exec (.defineProfile p) s = .next (s.storeReply p (refusal .badArgument)) := by
  rcases hbad with hbad | hbad
  · simp only [exec, execDefineProfile, hin, hbad]
  · simp only [exec, execDefineProfile, hin, hbad]
    cases axisOf entry <;> rfl

theorem exec_defineProfile {f : ProfileArgs} {h : Shape} (hin : s.store.inbox.get p = some (.defineProfile entry f))
    (hk : axisOf entry = some k) (hh : shapeOf f = some h) :
    exec (.defineProfile p) s = .next (s.entryChanged p k (.defined h)) := by
  simp only [exec, execDefineProfile, hin, hk, hh, State.entryChanged]

theorem exec_deleteProfile_badArgument (hin : s.store.inbox.get p = some (.deleteProfile entry))
    (hbad : axisOf entry = none) :
    exec (.deleteProfile p) s = .next (s.storeReply p (refusal .badArgument)) := by
  simp only [exec, execDeleteProfile, hin, hbad]

theorem exec_deleteProfile (hin : s.store.inbox.get p = some (.deleteProfile entry)) (hk : axisOf entry = some k) :
    exec (.deleteProfile p) s = .next (s.entryChanged p k .empty) := by
  simp only [exec, execDeleteProfile, hin, hk, State.entryChanged]

theorem exec_readProfile_badArgument (hin : s.store.inbox.get p = some (.readProfile entry))
    (hbad : axisOf entry = none) :
    exec (.readProfile p) s = .next (s.storeReply p (refusal .badArgument)) := by
  simp only [exec, execReadProfile, hin, hbad]

theorem exec_readProfile (hin : s.store.inbox.get p = some (.readProfile entry)) (hk : axisOf entry = some k) :
    exec (.readProfile p) s = .next (s.storeReply p (replyOk (s.table.get k).data)) := by
  simp only [exec, execReadProfile, hin, hk]

end

/-- Settles O44: the bytes are checked first, then DEFINE_PROFILE and DELETE_PROFILE make the same change of an entry, to the
defined shape and to EMPTY. -/
theorem profilesAreDefinedDeletedAndRead : Obligations.ProfilesAreDefinedDeletedAndRead := by
  rintro s t p entry rfl
  refine ⟨fun f hin => ⟨fun hbad => ?_, fun h => shapeOf_eq_some_iff.1, ?_, fun k h hk hh => ?_⟩,
    fun hin => ⟨fun hge => ?_, fun k hk => ?_⟩, fun hin => ⟨fun hge => ?_, fun k hk => ?_⟩⟩
  · exact exec_defineProfile_badArgument hin (hbad.imp_left axisOf_of_ge)
  · rintro ⟨h, hh⟩
    simp [shapeOf_eq_some_iff.2 hh]
  · exact exec_of_entryChanged (exec_defineProfile hin (axisOf_of_val hk) hh)
  · exact exec_deleteProfile_badArgument hin (axisOf_of_ge hge)
  · exact exec_of_entryChanged (exec_deleteProfile hin (axisOf_of_val hk))
  · exact exec_readProfile_badArgument hin (axisOf_of_ge hge)
  · rw [exec_readProfile hin (axisOf_of_val hk)]
    cases hx : (s.table.get k).state <;> simp only [Entry.data, hx] <;> rfl

end Sys2Proof.Machine
end

section
/-! SET_POSITION: its checks in order, and its effect (5 R101). -/

namespace Sys2Proof.Machine

section

variable {s : State} {n : AxisId} {p : Port} {a : Axis} {value : Word16}

/-- The state is checked before the value. -/
theorem exec_setPosition_badState (ha : s.axis n = a) (ho : a.offer = some (.request p (.setPosition value)))
    (hs : ¬ (a.state = .off ∨ a.state = .idle)) :
    exec (.setPosition n) s = .next ((s.setAxis n a.taken).reply p ⟨.badState, []⟩) := by
  simp only [exec, execSetPosition, ha, ho, hs, if_false, State.axisAnswers_eq ha]
  rfl

theorem exec_setPosition_outOfLimits (ha : s.axis n = a) (ho : a.offer = some (.request p (.setPosition value)))
    (hs : a.state = .off ∨ a.state = .idle) (hw : ¬ within a.config value = true) :
    exec (.setPosition n) s = .next ((s.setAxis n a.taken).reply p ⟨.outOfLimits, []⟩) := by
  simp only [exec, execSetPosition, ha, ho, hs, hw, if_true, State.axisAnswers_eq ha]
  rfl

theorem exec_setPosition (ha : s.axis n = a) (ho : a.offer = some (.request p (.setPosition value)))
    (hs : a.state = .off ∨ a.state = .idle) (hw : within a.config value = true) :
    exec (.setPosition n) s =
      .next ((s.setAxis n { a.taken with position := value, positionValid := true }).reply p ⟨.ok, []⟩) := by
  simp only [exec, execSetPosition, ha, ho, hs, hw, if_true, State.runAxis_send]
  rfl

end

/-- Settles O33: the limits are those of the axis's configuration, and a refused value leaves the position as it was. -/
theorem setPositionMakesThePositionKnown : Obligations.SetPositionMakesThePositionKnown := by
  intro s n p a b value ha ho hb
  obtain rfl : b = a.taken := hb
  refine ⟨fun hoff hidle => ?_, fun hs hout => ?_, fun hs hlo hhi => ?_⟩
  · exact exec_setPosition_badState ha ho (not_or.2 ⟨hoff, hidle⟩)
  · exact exec_setPosition_outOfLimits ha ho hs (by rw [within_iff]; omega)
  · exact exec_setPosition ha ho hs ((within_iff _ _).2 ⟨hlo, hhi⟩)

end Sys2Proof.Machine
end

section
/-! The coordinated start: GO and its collected answers, and the start that an axis controller takes (6 R116 to R118). -/

namespace Sys2Proof.Machine

/-! ## The reply that a port unit gathers -/

section

variable {s : State} {p : Port} {u : PortUnit} {named started awaited : Byte}

/-- A GO whose answers are not all in waits (R118). -/
theorem State.collected_go_waits (hu : u.collect = .go named started awaited) (h : awaited ≠ 0) :
    (s.setPort p u).collected p = s.setPort p u := by
  simp only [State.collected, State.port_setPort_same, hu, if_neg h]

/-- A GO that awaits no answer makes its reply arrive: the axes that started, and the other named ones (R118). -/
theorem State.collected_go_done (hu : u.collect = .go named started 0) :
    (s.setPort p u).collected p =
      (s.setPort p { u with collect := .none }).arrive p ⟨.ok, [started, named &&& ~~~started]⟩ := by
  simp only [State.collected, State.port_setPort_same, hu, if_true, State.setPort_setPort]
  rfl

/-- START_ANSWER counts an axis as started or not, and awaits its answer no longer (R118). -/
theorem exec_startAnswer {t : State} {n : AxisId} {b : Bool} (ht : s.settle p = t)
    (hc : (t.port p).collect = .go named started awaited) (ha : (t.port p).startAnswers.get n = some b) :
    exec (.startAnswer p n) s = .next ((t.setPort p
      { t.port p with
        startAnswers := (t.port p).startAnswers.set n none
        collect := .go named (if b then started ||| oneMask n else started) (awaited &&& ~~~oneMask n) }).collected p) := by
  simp only [exec, execStartAnswer, ht, hc, ha]

end

/-! ## GO -/

/-- Whether a GO of port `p` passes axis `n` a start: the mask names it and the port owns it (R116). -/
def State.starts (s : State) (p : Port) (mask : Byte) (n : AxisId) : Bool := inMask mask n && s.owns p n

/-- `s` once the GO of port `p` has been taken: the axes that it starts have their leases renewed and a start on its way
(R116). -/
def State.startsPassed (s : State) (p : Port) (mask : Byte) : State :=
  ((s.claimTaken p).renewAll (s.starts p mask)).sendAxes (s.starts p mask) (.start p)

section

variable {s : State} {p : Port} {mask passed : Byte} (n : AxisId)

theorem State.startsPassed_entry :
    (s.startsPassed p mask).entry n = if s.starts p mask n then (s.entry n).renewed else s.entry n := by
  rw [State.startsPassed, State.sendAxes_entry, State.renewAll_entry, State.claimTaken_entry]

theorem State.startsPassed_axis :
    (s.startsPassed p mask).axis n =
      if s.starts p mask n then { s.axis n with fromClaim := (s.axis n).fromClaim ++ [.start p] } else s.axis n := by
  rw [State.startsPassed, State.sendAxes_axis, State.renewAll_axis, State.claimTaken_axis]

/-- GO passes its starts and hands its port unit the axes whose answers the reply awaits (R116, R118). -/
theorem exec_go (hin : s.claim.inbox.get p = some (.go mask)) :
    exec (.go p) s = .next (((s.startsPassed p mask).setPort p
      { s.port p with collect := .go mask 0 (maskOf (s.starts p mask)) }).collected p) := by
  simp only [exec, execGo, hin]
  rfl

/-- A mask with exactly the bits of the named axes that the port owns picks the axes that GO starts. -/
theorem getLsbD_eq_starts
    (h : ∀ n : AxisId, passed.getLsbD n.val = true ↔ mask.getLsbD n.val = true ∧ (s.entry n).owner = some p) :
    passed.getLsbD n.val = s.starts p mask n := by
  rw [Bool.eq_iff_iff, h n]
  simp [State.starts, inMask, State.owns]

end

/-- Settles O27: GO and each answer leave the port unit a mask of awaited answers, and the reply arrives once it is empty. -/
theorem aGoStartsTheNamedAxesItsPortOwns : Obligations.AGoStartsTheNamedAxesItsPortOwns := by
  refine ⟨fun s p mask passed hin hpassed => ?_, ?_⟩
  · have hbit (n : AxisId) : passed.getLsbD n.val = s.starts p mask n := getLsbD_eq_starts n hpassed
    have hmask : maskOf (s.starts p mask) = passed := mask_ext fun n => by rw [maskOf_getLsbD, hbit]
    refine ⟨s.startsPassed p mask, fun hne => ?_, fun hzero => ?_, fun n => ?_, fun n => ?_, rfl⟩
    · rw [exec_go hin, hmask, State.collected_go_waits rfl hne]
    · have hrest : mask &&& ~~~0 = mask := BitVec.and_allOnes
      rw [exec_go hin, hmask, hzero, State.collected_go_done rfl, hrest]
    · rw [hbit, State.startsPassed_entry]
      rfl
    · rw [hbit, State.startsPassed_axis]
  · rintro s t p n named sofar awaited left now started ht hc ha rfl rfl
    refine ⟨fun hne => ?_, fun hzero => ?_⟩
    · rw [exec_startAnswer ht hc ha, State.collected_go_waits rfl hne]
    · rw [exec_startAnswer ht hc ha, hzero, State.collected_go_done rfl]

/-! ## START -/

section

variable {s : State} {n : AxisId} {p : Port} {a c : Axis}

/-- An ARMED axis with a hold cause enters HELD, in which no step begins (R58, R117). -/
theorem exec_start_held (ha : s.axis n = a) (ho : a.offer = some (.start p)) (hs : a.state = .armed)
    (hhold : a.holdCause = true) :
    exec (.start n) s =
      .next ((s.setAxis n { a.taken with state := .held }).deliver n (.answerStart p true)) := by
  simp only [exec, execStart, ha, ho, hs, hhold, if_true, State.runAxis_send]
  rw [Axis.beginStep_stays s.table (.inl (by simp))]

/-- An ARMED axis without a hold cause enters RUNNING, where its first step may begin in the same event (R58, R117). -/
theorem exec_start_running (ha : s.axis n = a) (ho : a.offer = some (.start p)) (hs : a.state = .armed)
    (hhold : a.holdCause = false) (hc : Axis.beginStep s.table { a.taken with state := .running } = c) :
    exec (.start n) s = .next ((s.setAxis n c).deliver n (.answerStart p true)) := by
  simp only [exec, execStart, ha, ho, hs, hhold, ← hc, Bool.false_eq_true, if_false, State.runAxis_send]

/-- Outside ARMED a start is answered not started and changes nothing else (R117). -/
theorem exec_start_unarmed (ha : s.axis n = a) (ho : a.offer = some (.start p)) (hs : a.state ≠ .armed) :
    exec (.start n) s = .next ((s.setAxis n a.taken).deliver n (.answerStart p false)) := by
  simp only [exec, execStart, ha, ho, State.runAxis_send]

end

/-- Settles O43: by the state and the hold causes; before the period has expired the RUNNING axis begins no step. -/
theorem aStartLetsAnArmedAxisGo : Obligations.AStartLetsAnArmedAxisGo := by
  intro s n p a b answers ha ho hb hanswers
  obtain rfl : b = a.taken := hb
  simp only [hanswers]
  refine ⟨fun hs hhold => ?_, fun hs hhold hperiod => ?_, fun hs hhold _ => ?_, fun hs => ?_⟩
  · exact exec_start_held ha ho hs hhold
  · exact exec_start_running ha ho hs hhold (Axis.beginStep_stays s.table (.inr (.inr hperiod)))
  · exact exec_start_running ha ho hs hhold rfl
  · exact exec_start_unarmed ha ho hs

end Sys2Proof.Machine
end

section
/-! What the claim unit makes of the requests for an axis and of its own events: CLAIM, SEIZE, RELEASE, the expiry of a
lease, DETACH and the restart step (7 R122 to R142, 11 R183). -/

namespace Sys2Proof.Machine

/-! ## Messages of one event -/

theorem State.sendNotice_sendNotice (s : State) (xs ys : List NoticeMsg) :
    (s.sendNotice xs).sendNotice ys = s.sendNotice (xs ++ ys) := by
  simp only [State.sendNotice, List.append_assoc]

/-! ## CLAIM -/

section

variable {s : State} {p : Port} {axis lease : Byte} {n : AxisId}

theorem exec_claim_badArgument (hin : s.claim.inbox.get p = some (.claim axis lease)) (h : axisOf axis = none) :
    exec (.claim p) s = .next ((s.claimTaken p).reply p ⟨.badArgument, []⟩) := by
  simp only [exec, execClaim, hin, h]
  rfl

/-- An unowned axis is granted (R126). -/
theorem exec_claim_free (hin : s.claim.inbox.get p = some (.claim axis lease)) (hn : axisOf axis = some n)
    (ho : (s.entry n).owner = none) :
    exec (.claim p) s = .next (((s.claimTaken p).grant p n lease).reply p ⟨.ok, []⟩) := by
  simp only [exec, execClaim, hin, hn, ho]
  rfl

/-- Its owner renews the lease, with the period it now gives (R126). -/
theorem exec_claim_own (hin : s.claim.inbox.get p = some (.claim axis lease)) (hn : axisOf axis = some n)
    (ho : (s.entry n).owner = some p) :
    exec (.claim p) s = .next (((s.claimTaken p).setEntry n (.granted p lease)).reply p ⟨.ok, []⟩) := by
  simp only [exec, execClaim, hin, hn, ho, if_true]
  rfl

theorem exec_claim_heldElsewhere {q : Port} (hin : s.claim.inbox.get p = some (.claim axis lease))
    (hn : axisOf axis = some n) (ho : (s.entry n).owner = some q) (hq : q ≠ p) :
    exec (.claim p) s = .next ((s.claimTaken p).reply p ⟨.heldElsewhere, []⟩) := by
  simp only [exec, execClaim, hin, hn, ho, if_neg hq]
  rfl

end

/-- Settles O22: by the axis number and the owner that the claim unit finds. -/
theorem aClaimIsGrantedRenewedOrRefused : Obligations.AClaimIsGrantedRenewedOrRefused := by
  intro s p axis lease hin
  refine ⟨fun hge => ?_, fun n hn => ⟨fun ho => ?_, fun ho => ?_, fun ho => ?_⟩⟩
  · exact exec_claim_badArgument hin (axisOf_of_ge hge)
  · exact exec_claim_free hin (axisOf_of_val hn) ho
  · exact exec_claim_own hin (axisOf_of_val hn) ho
  · exact exec_claim_heldElsewhere hin (axisOf_of_val hn) ho p.other_ne

/-! ## SEIZE -/

theorem keepMotionOf_of_ge {k : Byte} (h : 2 ≤ k.toNat) : keepMotionOf k = none := by
  unfold keepMotionOf
  split
  · omega
  · omega
  · rfl

theorem keepMotionOf_of_lt {k : Byte} (h : k.toNat < 2) : keepMotionOf k = some (decide (k.toNat = 1)) := by
  have values : k.toNat = 0 ∨ k.toNat = 1 := by omega
  rcases values with h | h <;> simp [keepMotionOf, h]

section

variable {s : State} {p : Port} {axis lease code : Byte} {n : AxisId} {keep : Bool}

theorem exec_seize_badArgument (hin : s.claim.inbox.get p = some (.seize axis lease code))
    (h : axisOf axis = none ∨ keepMotionOf code = none) :
    exec (.seize p) s = .next ((s.claimTaken p).reply p ⟨.badArgument, []⟩) := by
  simp only [exec, execSeize, hin]
  rcases h with h | h
  · rw [h]
    rfl
  · rw [h]
    cases axisOf axis <;> rfl

theorem State.isSupervisor_iff (s : State) (p : Port) : s.isSupervisor p = true ↔ p = .b ∧ s.start.supvLatch = true := by
  simp [State.isSupervisor]

theorem exec_seize_notSupervisor (hin : s.claim.inbox.get p = some (.seize axis lease code)) (hn : axisOf axis = some n)
    (hk : keepMotionOf code = some keep) (hs : s.isSupervisor p = false) :
    exec (.seize p) s = .next ((s.claimTaken p).reply p ⟨.notSupervisor, []⟩) := by
  simp only [exec, execSeize, hin, hn, hk, hs]
  rfl

/-- An unowned axis is granted to the supervisor, and the reply names no former owner (R129). -/
theorem exec_seize_free (hin : s.claim.inbox.get p = some (.seize axis lease code)) (hn : axisOf axis = some n)
    (hk : keepMotionOf code = some keep) (hs : s.isSupervisor p = true) (ho : (s.entry n).owner = none) :
    exec (.seize p) s = .next (((s.claimTaken p).grant p n lease).reply p ⟨.ok, [ownerCode none]⟩) := by
  simp only [exec, execSeize, hin, hn, hk, hs, ho, if_true]
  rfl

/-- The supervisor renews the lease of an axis that it owns (R129). -/
theorem exec_seize_own (hin : s.claim.inbox.get p = some (.seize axis lease code)) (hn : axisOf axis = some n)
    (hk : keepMotionOf code = some keep) (hs : s.isSupervisor p = true) (ho : (s.entry n).owner = some p) :
    exec (.seize p) s =
      .next (((s.claimTaken p).setEntry n (.granted p lease)).reply p ⟨.ok, [ownerCode (some p)]⟩) := by
  simp only [exec, execSeize, hin, hn, hk, hs, ho, if_true]
  rfl

/-- A transfer: the change and LOST to the former owner, then the reply, which without keep_motion waits for the seize
action (R130). -/
theorem exec_seize_transfer {q : Port} (hin : s.claim.inbox.get p = some (.seize axis lease code))
    (hn : axisOf axis = some n) (hk : keepMotionOf code = some keep) (hs : s.isSupervisor p = true)
    (ho : (s.entry n).owner = some q) (hq : q ≠ p) :
    exec (.seize p) s = .next
      (let t := ((s.claimTaken p).setEntry n (.granted p lease)).sendNotice
        [.report n (some p) false, .posting .lost n q]
       if keep then t.reply p ⟨.ok, [ownerCode (some q)]⟩ else t.sendAxis n (.seize p)) := by
  simp only [exec, execSeize, hin, hn, hk, hs, ho, if_neg hq, if_true, State.grant, State.sendNotice_sendNotice]
  rfl

end

/-- Settles O23: the checks of R129 and R134 in their order, then the owner that the claim unit finds. -/
theorem aSeizeTakesTheAxisForTheSupervisor : Obligations.ASeizeTakesTheAxisForTheSupervisor := by
  intro s p axis lease code hin
  refine ⟨fun h => exec_seize_badArgument hin (h.imp axisOf_of_ge keepMotionOf_of_ge), ?_⟩
  rintro n t hn hcode rfl
  have hk := keepMotionOf_of_lt hcode
  replace hn := axisOf_of_val hn
  have supervisor (hp : p = .b) (hl : s.start.supvLatch = true) : s.isSupervisor p = true :=
    (s.isSupervisor_iff p).2 ⟨hp, hl⟩
  refine ⟨fun h => ?_, fun hp hl ho => ?_, fun hp hl ho => ?_, fun hp hl ho h1 => ?_, fun hp hl ho h0 => ?_⟩
  · refine exec_seize_notSupervisor hin hn hk (Bool.eq_false_iff.2 fun hs => ?_)
    obtain ⟨rfl, hl⟩ := (s.isSupervisor_iff p).1 hs
    simp [hl] at h
  · exact exec_seize_free hin hn hk (supervisor hp hl) ho
  · subst hp
    exact exec_seize_own hin hn hk (supervisor rfl hl) ho
  · subst hp
    rw [exec_seize_transfer hin hn hk (supervisor rfl hl) ho (by decide), h1]
    rfl
  · subst hp
    rw [exec_seize_transfer hin hn hk (supervisor rfl hl) ho (by decide), h0]
    rfl

/-! ## RELEASE and the expiry of a lease -/

theorem releaseActionOf_of_ge {k : Byte} (h : 3 ≤ k.toNat) : releaseActionOf k = none := by
  unfold releaseActionOf
  split
  · omega
  · omega
  · omega
  · rfl

theorem releaseActionOf_of_lt {k : Byte} (h : k.toNat < 3) :
    releaseActionOf k = some (if k.toNat = 0 then none else some (decide (k.toNat = 2))) := by
  have values : k.toNat = 0 ∨ k.toNat = 1 ∨ k.toNat = 2 := by omega
  rcases values with h | h | h <;> simp [releaseActionOf, h]

section

variable {s : State} {p : Port} {axis code : Byte} {n : AxisId} {act : Option Bool}

theorem exec_release_badArgument (hin : s.claim.inbox.get p = some (.release axis code))
    (h : axisOf axis = none ∨ releaseActionOf code = none) :
    exec (.release p) s = .next ((s.claimTaken p).reply p ⟨.badArgument, []⟩) := by
  simp only [exec, execRelease, hin]
  rcases h with h | h
  · rw [h]
    rfl
  · rw [h]
    cases axisOf axis <;> rfl

theorem exec_release_notOwner (hin : s.claim.inbox.get p = some (.release axis code)) (hn : axisOf axis = some n)
    (ha : releaseActionOf code = some act) (ho : (s.entry n).owner ≠ some p) :
    exec (.release p) s = .next ((s.claimTaken p).reply p ⟨.notOwner, []⟩) := by
  have owns : s.owns p n = false := by simpa [State.owns] using ho
  simp only [exec, execRelease, hin, hn, ha, owns]
  rfl

/-- The owner's RELEASE ends the claim; with STOP or PARK the reply is left to the release action (R127). -/
theorem exec_release_owned (hin : s.claim.inbox.get p = some (.release axis code)) (hn : axisOf axis = some n)
    (ha : releaseActionOf code = some act) (ho : (s.entry n).owner = some p) :
    exec (.release p) s = .next
      (match act with
        | none => ((s.claimTaken p).endClaim n).reply p ⟨.ok, []⟩
        | some park => ((s.claimTaken p).endClaim n).sendAxis n (.release p park)) := by
  have owns : s.owns p n = true := by simp [State.owns, ho]
  simp only [exec, execRelease, hin, hn, ha, owns, if_true]
  cases act <;> rfl

/-- The expiry of a lease, once its time has passed (R132). -/
theorem exec_leaseExpiry (ho : (s.entry n).owner = some p) (hl : (s.entry n).leasePeriod ≠ 0) :
    exec (.leaseExpiry n) s = .next
      ((((s.advance (s.entry n).leaseLeft).setEntry n .free).sendNotice
        [.report n none false, .posting .lapsed n p]).sendAxis n .lapse) := by
  simp only [exec, execLeaseExpiry, ho, if_neg hl, State.endClaim, State.sendNotice_sendNotice]
  rfl

theorem exec_leaseExpiry_unleased (hl : (s.entry n).leasePeriod = 0) : exec (.leaseExpiry n) s = .next s := by
  simp only [exec, execLeaseExpiry, hl, if_true]
  cases (s.entry n).owner <;> rfl

end

/-- Settles O25: RELEASE by its checks in their order and its action, the expiry by whether the axis has a lease. -/
theorem aClaimEndsByReleaseOrExpiry : Obligations.AClaimEndsByReleaseOrExpiry := by
  refine ⟨fun s p axis code hin => ⟨fun h => ?_, ?_⟩,
    fun s n p ho => ⟨exec_leaseExpiry ho, exec_leaseExpiry_unleased⟩⟩
  · exact exec_release_badArgument hin (h.imp axisOf_of_ge releaseActionOf_of_ge)
  rintro n t hn hcode rfl
  have ha := releaseActionOf_of_lt hcode
  replace hn := axisOf_of_val hn
  refine ⟨exec_release_notOwner hin hn ha, fun ho h0 => ?_, fun ho h1 => ?_, fun ho h2 => ?_⟩
  · rw [h0] at ha
    exact exec_release_owned hin hn ha ho
  · rw [h1] at ha
    exact exec_release_owned hin hn ha ho
  · rw [h2] at ha
    exact exec_release_owned hin hn ha ho

/-! ## DETACH and its answers -/

section

variable {s t : State} {p : Port} {u : PortUnit} {mask awaited : Byte} {clearAwaited : Bool}

/-- `s` once the claim unit has taken the DETACH of port `p`: its claims ended and reported, the clear sent behind the
reports, and a detach action on its way to each of its axes (R131). -/
def State.detached (s : State) (p : Port) : State :=
  (((s.claimTaken p).endClaims (s.owns p) false).sendNotice [.clear p]).sendAxes (s.owns p) (.detach p)

theorem exec_detach (hin : s.claim.inbox.get p = some .detach) :
    exec (.detach p) s = .next ((s.detached p).setPort p
      { s.port p with collect := .detach (maskOf (s.owns p)) (maskOf (s.owns p)) true }) := by
  simp only [exec, execDetach, hin]
  rfl

theorem State.detached_entry (n : AxisId) :
    (s.detached p).entry n = if s.owns p n then .free else s.entry n := by
  rw [State.detached, State.sendAxes_entry, State.sendNotice_entry, State.endClaims_entry, State.claimTaken_entry]

theorem State.detached_axis (n : AxisId) :
    (s.detached p).axis n =
      if s.owns p n then { s.axis n with fromClaim := (s.axis n).fromClaim ++ [.detach p] } else s.axis n := by
  rw [State.detached, State.sendAxes_axis, State.sendNotice_axis, State.endClaims_axis, State.claimTaken_axis]

/-- A DETACH whose answers are not all in waits (R131). -/
theorem State.collected_detach_waits (hu : u.collect = .detach mask awaited clearAwaited)
    (h : awaited ≠ 0 ∨ clearAwaited = true) : (s.setPort p u).collected p = s.setPort p u := by
  have h' : ¬(awaited = 0 ∧ clearAwaited = false) := by
    rintro ⟨rfl, rfl⟩
    simp at h
  simp only [State.collected, State.port_setPort_same, hu, if_neg h']

/-- A DETACH that awaits no answer makes its reply arrive: the axes that it has freed (R131). -/
theorem State.collected_detach_done (hu : u.collect = .detach mask 0 false) :
    (s.setPort p u).collected p = (s.setPort p { u with collect := .none }).arrive p ⟨.ok, [mask]⟩ := by
  simp only [State.collected, State.port_setPort_same, hu, and_self, if_true, State.setPort_setPort]
  rfl

/-- DETACH_ANSWER of an axis: its answer is awaited no longer (R131). -/
theorem exec_detachAnswer_axis {n : AxisId} (ht : s.settle p = t)
    (hc : (t.port p).collect = .detach mask awaited clearAwaited) (ha : (t.port p).detachAnswers.get n = true) :
    exec (.detachAnswer p (.axis n)) s = .next ((t.setPort p
      { t.port p with
        detachAnswers := (t.port p).detachAnswers.set n false
        collect := .detach mask (awaited &&& ~~~oneMask n) clearAwaited }).collected p) := by
  simp only [exec, execDetachAnswer, ht, hc, ha, if_true]

/-- DETACH_ANSWER of the notice unit: the clear's answer is awaited no longer (R131). -/
theorem exec_detachAnswer_noticeUnit (ht : s.settle p = t)
    (hc : (t.port p).collect = .detach mask awaited clearAwaited) (ha : (t.port p).clearAnswer = true) :
    exec (.detachAnswer p .noticeUnit) s = .next ((t.setPort p
      { t.port p with clearAnswer := false, collect := .detach mask awaited false }).collected p) := by
  simp only [exec, execDetachAnswer, ht, hc, ha, if_true]

end

/-- Settles O26: DETACH and each answer leave the port unit a mask of awaited answers, and the reply arrives with the last. -/
theorem aDetachEndsEveryClaimOfItsPort : Obligations.ADetachEndsEveryClaimOfItsPort := by
  refine ⟨fun s p mask hin hmask => ?_, fun s t p mask awaited clearAwaited ht hc => ⟨?_, fun ha => ⟨?_, ?_⟩⟩⟩
  · have hbit (n : AxisId) : mask.getLsbD n.val = s.owns p n := by
      rw [Bool.eq_iff_iff, hmask n]
      simp [State.owns]
    have hmaskOf : maskOf (s.owns p) = mask := mask_ext fun n => by rw [maskOf_getLsbD, hbit]
    refine ⟨s.detached p, by rw [exec_detach hin, hmaskOf], fun n => ?_, fun n => ?_, ?_⟩
    · rw [hbit, State.detached_entry]
      rfl
    · rw [hbit, State.detached_axis]
    · simp only [hbit]
      rfl
  · rintro n left ha rfl
    rw [exec_detachAnswer_axis ht hc ha]
    refine ⟨fun h => ?_, fun hzero hclear => ?_⟩
    · rw [State.collected_detach_waits rfl h]
    · rw [hzero, hclear, State.collected_detach_done rfl]
  · intro hne
    rw [exec_detachAnswer_noticeUnit ht hc ha, State.collected_detach_waits rfl (.inl hne)]
  · rintro rfl
    rw [exec_detachAnswer_noticeUnit ht hc ha, State.collected_detach_done rfl]

/-! ## The restart step -/

/-- Clearing the owned entries of the table, seen entry by entry (R141). -/
theorem entries_map_free_owned (s : State) :
    (s.claim.entries.map fun n e => if (s.entry n).owner.isSome then ClaimEntry.free else e) =
      s.claim.entries.map fun _ e => if e.owner.isSome then ⟨none, 0, 0⟩ else e :=
  Eight.ext_get fun n => by
    rw [Eight.get_map, Eight.get_map]
    rfl

/-- Settles O19: done is reported by the step itself exactly where it reports no change, and else by the last answer. -/
theorem theClaimUnitsRestartStepClearsItsTable : Obligations.TheClaimUnitsRestartStepClearsItsTable := by
  refine ⟨fun s owned hr howned => ?_, fun s hanswers hawaiting => ?_⟩
  · simp only [exec, execClaimRestartStep, hr, if_true, ← howned, State.endClaims, entries_map_free_owned,
      List.length_eq_zero_iff]
    split <;> rfl
  · have hwaits : ¬(s.claim.answersIn = 0 ∨ s.claim.awaiting = 0) := by omega
    have hlast : s.claim.awaiting - 1 = 0 ↔ s.claim.awaiting = 1 := by omega
    simp only [exec, execReportAnswer, if_neg hwaits, hlast]
    split <;> rfl

end Sys2Proof.Machine
end

section
/-! Claims, error records and notice records kept sound, and the routing copy kept behind the claim table: the
operations (7 R122 to R135, 8 R144 to R156, 9 R171). -/

namespace Sys2Proof.Machine

/-! ## What is kept from one state to another -/

/-- From `s` to `t` the claim table, the error records and the notice records stay sound, and the routing copy goes on
following the claim table. -/
structure State.StaysSound (s t : State) : Prop where
  claims : s.ClaimsSound → t.ClaimsSound
  ports : s.PortsSound → t.PortsSound
  notices : s.NoticesSound → t.NoticesSound
  routing : s.RoutingFollows → t.RoutingFollows

namespace State.StaysSound

theorem refl (s : State) : s.StaysSound s := ⟨id, id, id, id⟩

theorem trans {s t u : State} (h : s.StaysSound t) (g : t.StaysSound u) : s.StaysSound u :=
  ⟨g.claims ∘ h.claims, g.ports ∘ h.ports, g.notices ∘ h.notices, g.routing ∘ h.routing⟩

/-- `trans` with the later part first, which tells the state between the two. -/
theorem after {s t u : State} (g : t.StaysSound u) (h : s.StaysSound t) : s.StaysSound u := h.trans g

/-- What changes neither the claim table and the reports on their way nor the records and the routing copy keeps them. -/
theorem of_same {s t : State} (entries : t.claim.entries = s.claim.entries)
    (toNotice : t.claim.toNotice = s.claim.toNotice) (records : t.notice.records = s.notice.records)
    (routing : t.notice.routing = s.notice.routing) (ports : s.PortsSound → t.PortsSound) : s.StaysSound t := by
  have entry (n : AxisId) : t.entry n = s.entry n := by rw [State.entry, entries]; rfl
  have record (p : Port) (n : AxisId) : t.notice.record p n = s.notice.record p n := by
    rw [NoticeUnit.record, records]; rfl
  refine ⟨fun o n => ?_, ports, fun o p n => ?_, fun o n => ?_⟩
  · rw [entry]; exact o n
  · rw [record]; exact o p n
  · rw [entry, toNotice, routing]; exact o n

end State.StaysSound

theorem State.SameButPorts.staysSound {s t : State} (h : s.SameButPorts t) (ports : s.PortsSound → t.PortsSound) :
    s.StaysSound t := by
  obtain ⟨-, -, ⟨b, hclaim⟩, -, ⟨c, hnotice⟩, -⟩ := h
  exact .of_same (by rw [hclaim]) (by rw [hclaim]) (by rw [hnotice]) (by rw [hnotice]) ports

/-! ## Error records (R171) -/

section

variable {u : PortUnit}

theorem PortUnit.ErrorsSound.countError (o : u.ErrorsSound) (e : FrameError) : (u.countError e).ErrorsSound := by
  unfold PortUnit.countError
  split
  · exact o
  · obtain ⟨-, hfirst⟩ := o
    have hcount : min Config.errorCounterMax (u.errorCounter + 1) ≠ 0 := by unfold Config.errorCounterMax; omega
    refine ⟨Nat.min_le_left .., iff_of_false ?_ hcount⟩
    dsimp only
    split
    · exact Option.some_ne_none e
    · rename_i hc
      exact fun hnone => hc (hfirst.1 hnone)

/-- A cleared error record is sound (R174, R175). -/
theorem PortUnit.errorsSound_of_clear (hc : u.errorCounter = 0) (hf : u.firstError = none) : u.ErrorsSound :=
  ⟨by omega, iff_of_true hf hc⟩

theorem PortUnit.ErrorsSound.codeByte (o : u.ErrorsSound) (b : Byte) : (u.codeByte b).ErrorsSound := by
  unfold PortUnit.codeByte
  split
  · exact o
  · exact o.countError _

theorem PortUnit.ErrorsSound.beginByte (o : u.ErrorsSound) (status : Byte) : (u.beginByte status).ErrorsSound := by
  unfold PortUnit.beginByte
  split
  · exact o
  · exact o
  · exact o
  · split <;> exact o
  · split <;> exact o
  · exact o.countError _
  · exact o

theorem PortUnit.ErrorsSound.countEnd (o : u.ErrorsSound) : u.countEnd.ErrorsSound := by
  unfold PortUnit.countEnd
  split
  · exact o.countError _
  · exact o

theorem PortUnit.ErrorsSound.endFrame (o : u.ErrorsSound) : u.endFrame.ErrorsSound := o.countEnd

theorem PortUnit.ErrorsSound.delivered (o : u.ErrorsSound) (n : AxisId) (p : Port) (x : Sent) :
    (u.delivered n p x).ErrorsSound := by
  cases x
  case quiet => exact o
  all_goals
    unfold PortUnit.delivered
    dsimp only
    split <;> exact o

theorem PortUnit.ErrorsSound.deliveredAll (o : u.ErrorsSound) (n : AxisId) (p : Port) (xs : List Sent) :
    (xs.foldl (fun u x => u.delivered n p x) u).ErrorsSound := by
  induction xs generalizing u with
  | nil => exact o
  | cons x xs ih => exact ih (o.delivered n p x)

end

/-! ## A port unit's operations -/

section

variable {s : State} {p : Port} (o : s.PortsSound)

include o

theorem State.PortsSound.of_ports {t : State} (h : t.ports = s.ports) : t.PortsSound := fun q => by
  rw [State.port, h]; exact o q

theorem State.PortsSound.setPort {u : PortUnit} (hu : u.ErrorsSound) : (s.setPort p u).PortsSound := fun q => by
  rw [State.port_setPort]
  split
  · exact hu
  · exact o q

theorem State.PortsSound.handOn {r : Request} : (s.handOn p r).PortsSound :=
  State.PortsSound.of_ports (s := s.setPort p { s.port p with held := none, inHand := some r, mine := true })
    (o.setPort (o p)) (State.route_ports ..)

theorem State.PortsSound.handHeld : (s.handHeld p).PortsSound := by
  unfold State.handHeld
  split
  · split
    · exact o.handOn
    · exact o
  · exact o

theorem State.PortsSound.arrive {r : Reply} : (s.arrive p r).PortsSound := by
  unfold State.arrive
  refine State.PortsSound.handHeld ?_
  exact o.setPort (o p)

theorem State.PortsSound.takeReadPortStatus : (s.takeReadPortStatus p).PortsSound := by
  unfold State.takeReadPortStatus
  refine State.PortsSound.arrive ?_
  exact o.setPort (o p)

theorem State.PortsSound.takeClearPortErrors : (s.takeClearPortErrors p).PortsSound := by
  unfold State.takeClearPortErrors
  refine State.PortsSound.arrive ?_
  exact o.setPort (PortUnit.errorsSound_of_clear rfl rfl)

theorem State.PortsSound.settle : (s.settle p).PortsSound := by
  unfold State.settle
  split
  · exact o.arrive
  · exact o.takeReadPortStatus
  · exact o.takeClearPortErrors
  · exact o

theorem State.PortsSound.collected : (s.collected p).PortsSound := by
  unfold State.collected
  split
  · exact o
  · split
    · refine State.PortsSound.arrive ?_
      exact o.setPort (o p)
    · exact o
  · split
    · refine State.PortsSound.arrive ?_
      exact o.setPort (o p)
    · exact o

theorem State.PortsSound.completeByte {b : Byte} : (s.completeByte p b).PortsSound := by
  unfold State.completeByte
  dsimp only
  split
  · exact o
  · exact o.setPort ((o p).codeByte b)
  · split
    · split
      · refine State.PortsSound.handHeld ?_
        exact o.setPort (o p)
      · exact o.setPort ((o p).countError _)
    · exact o.setPort (o p)
  · exact o
  · exact o.setPort (o p)
  · exact o
  · exact o

theorem State.PortsSound.sckFalls : (s.sckFalls p).PortsSound := by
  unfold State.sckFalls
  dsimp only
  split
  · split
    · exact o
    · exact o.setPort (o p)
  · exact o.setPort ((o p).beginByte _)

theorem State.PortsSound.sckRises {mosi : Bool} : (s.sckRises p mosi).PortsSound := by
  unfold State.sckRises
  dsimp only
  split
  · split
    · exact o.setPort (o p)
    · refine State.PortsSound.completeByte ?_
      exact o.setPort (o p)
  · exact o

end

/-! ## Notice records (R144, R153) -/

section

variable {r : NoticeRecord} {u : NoticeUnit} (p : Port) (n : AxisId)

theorem NoticeRecord.sound_empty : NoticeRecord.empty.Sound := ⟨Nat.zero_le _, by decide, fun _ => rfl⟩

/-- The pending bit of DONE changes by the filing of a DONE alone. -/
theorem NoticeKind.set_done_bit (k : NoticeKind) :
    k.set.getLsbD NoticeKind.done.bit.val = decide (k = .done) := by
  cases k <;> decide

theorem NoticeRecord.Sound.file (o : r.Sound) (k : NoticeKind) (tag : Byte) : (r.file k tag).Sound := by
  obtain ⟨hmax, hpending, htag⟩ := o
  by_cases hk : k = .done
  · subst hk
    have hcount : 0 < min Config.doneCountMax (r.doneCount + 1) := by unfold Config.doneCountMax; omega
    refine ⟨Nat.min_le_left .., iff_of_true ?_ hcount, fun h0 => absurd h0 hcount.ne'⟩
    rw [NoticeRecord.file, BitVec.getLsbD_or, NoticeKind.set_done_bit]
    simp
  · have hfile : r.file k tag = { r with pending := r.pending ||| k.set } := by
      cases k with
      | done => exact absurd rfl hk
      | _ => rfl
    rw [hfile]
    refine ⟨hmax, ?_, htag⟩
    rw [BitVec.getLsbD_or, NoticeKind.set_done_bit, decide_eq_false hk, Bool.or_false]
    exact hpending

theorem NoticeRecord.Sound.acknowledge (o : r.Sound) (kinds : Byte) : (r.acknowledge kinds).Sound := by
  obtain ⟨hmax, hpending, htag⟩ := o
  have hbit : (r.pending &&& ~~~kinds).getLsbD NoticeKind.done.bit.val =
      (r.pending.getLsbD NoticeKind.done.bit.val && !kinds.getLsbD NoticeKind.done.bit.val) := by
    simp [NoticeKind.bit]
  unfold NoticeRecord.acknowledge
  split
  · rename_i hk
    refine ⟨Nat.zero_le _, ?_, fun _ => rfl⟩
    rw [hbit, hk, Bool.not_true, Bool.and_false]
    exact iff_of_false Bool.false_ne_true (lt_irrefl 0)
  · rename_i hk
    refine ⟨hmax, ?_, htag⟩
    rw [hbit, Bool.eq_false_iff.2 hk, Bool.not_false, Bool.and_true]
    exact hpending

/-- Every record of a notice unit is sound. -/
def NoticeUnit.Sound (u : NoticeUnit) : Prop := ∀ p n, (u.record p n).Sound

theorem State.noticesSound_iff (s : State) : s.NoticesSound ↔ s.notice.Sound := Iff.rfl

theorem NoticeUnit.record_setRecord (q : Port) (m : AxisId) :
    (u.setRecord p n r).record q m = if q = p ∧ m = n then r else u.record q m := by
  simp only [NoticeUnit.record, NoticeUnit.setRecord, PerPort.get_set]
  by_cases hq : q = p
  · subst hq
    simp [Eight.get_set]
  · simp [hq]

theorem NoticeUnit.record_emptyRecords (q : Port) (m : AxisId) :
    (u.emptyRecords p).record q m = if q = p then .empty else u.record q m := by
  simp only [NoticeUnit.record, NoticeUnit.emptyRecords, PerPort.get_set]
  split
  · exact Eight.get_same ..
  · rfl

theorem NoticeUnit.Sound.setRecord (o : u.Sound) (hr : r.Sound) : (u.setRecord p n r).Sound := fun q m => by
  rw [NoticeUnit.record_setRecord]
  split
  · exact hr
  · exact o q m

theorem NoticeUnit.Sound.emptyRecords (o : u.Sound) : (u.emptyRecords p).Sound := fun q m => by
  rw [NoticeUnit.record_emptyRecords]
  split
  · exact NoticeRecord.sound_empty
  · exact o q m

theorem NoticeUnit.Sound.file (o : u.Sound) (k : NoticeKind) (tag : Byte) : (u.file p n k tag).Sound :=
  o.setRecord p n ((o p n).file k tag)

theorem NoticeUnit.Sound.route (o : u.Sound) (x : Posting) : (u.route n x).Sound := by
  have first : (if u.reaches .a n then u.file .a n x.kind x.tag else u).Sound := by
    split
    · exact o.file .a n _ _
    · exact o
  unfold NoticeUnit.route
  dsimp only
  split
  · exact first.file .b n _ _
  · exact first

/-- Filing changes records alone. -/
theorem NoticeUnit.route_routing (u : NoticeUnit) (x : Posting) : (u.route n x).routing = u.routing := by
  unfold NoticeUnit.route
  dsimp only
  split <;> split <;> rfl

end

/-- A change of the notice unit that keeps its routing copy and its records sound. -/
theorem State.staysSound_notice {s : State} {u : NoticeUnit} (routing : u.routing = s.notice.routing)
    (sound : s.notice.Sound → u.Sound) : s.StaysSound { s with notice := u } := by
  refine ⟨id, id, fun o => (State.noticesSound_iff _).2 (sound (s.noticesSound_iff.1 o)), fun o n => ?_⟩
  rw [routing]
  exact o n

/-! ## Reports on their way (R135, R147) -/

section

variable (n : AxisId) (routing : Owner)

theorem reportedOwner_append (xs ys : List NoticeMsg) :
    reportedOwner n routing (xs ++ ys) = reportedOwner n (reportedOwner n routing xs) ys := List.foldl_append

theorem reportedOwner_report (k : AxisId) (owner : Owner) (answered : Bool) :
    reportedOwner n routing [.report k owner answered] = if k = n then owner else routing := rfl

/-- Reports of ended claims tell of no owner for the axes that they name. -/
theorem reportedOwner_ended (answered : Bool) (xs : List AxisId) :
    reportedOwner n routing (xs.map fun k => .report k none answered) = if n ∈ xs then none else routing := by
  induction xs generalizing routing with
  | nil => rfl
  | cons k xs ih =>
    rw [List.map_cons, ← List.singleton_append, reportedOwner_append, reportedOwner_report, ih]
    by_cases hk : k = n
    · subst hk; simp
    · simp [hk, Ne.symm hk]

end

/-! ## The claim table (R122, R123) -/

theorem ClaimEntry.sound_free : ClaimEntry.free.Sound := ⟨fun _ => rfl, Nat.zero_le _⟩

theorem ClaimEntry.sound_granted (p : Port) (lease : Byte) : (ClaimEntry.granted p lease).Sound :=
  ⟨fun h => absurd h (Option.some_ne_none p), le_refl _⟩

section

variable {e : ClaimEntry}

theorem ClaimEntry.Sound.renewed (o : e.Sound) : e.renewed.Sound := ⟨o.1, le_refl _⟩

theorem ClaimEntry.Sound.advance (o : e.Sound) (d : Nat) : (e.advance d).Sound := ⟨o.1, (Nat.sub_le ..).trans o.2⟩

end

namespace State

variable (s : State) (n : AxisId) (p : Port)

/-- A change of the claim table that keeps every owner. -/
theorem staysSound_of_owners {s t : State} (sound : ∀ n, (s.entry n).Sound → (t.entry n).Sound)
    (owner : ∀ n, (t.entry n).owner = (s.entry n).owner) (toNotice : t.claim.toNotice = s.claim.toNotice)
    (ports : t.ports = s.ports) (notice : t.notice = s.notice) : s.StaysSound t := by
  refine ⟨fun o n => sound n (o n), fun o => o.of_ports ports, fun o p n => ?_, fun o n => ?_⟩
  · rw [notice]; exact o p n
  · rw [owner, toNotice, notice]; exact o n

theorem staysSound_advance (d : Nat) : s.StaysSound (s.advance d) :=
  staysSound_of_owners (fun n o => by rw [advance_entry]; exact o.advance d) (fun n => by rw [advance_entry]; rfl) rfl rfl rfl

theorem staysSound_renewAll (f : AxisId → Bool) : s.StaysSound (s.renewAll f) := by
  refine staysSound_of_owners (fun n o => ?_) (fun n => ?_) rfl rfl rfl
  · rw [renewAll_entry]
    split
    · exact o.renewed
    · exact o
  · rw [renewAll_entry]
    split <;> rfl

variable {n} in
/-- An entry may change as long as its owner does not. -/
theorem staysSound_setEntry {e : ClaimEntry} (owner : e.owner = (s.entry n).owner)
    (sound : (s.entry n).Sound → e.Sound) : s.StaysSound (s.setEntry n e) := by
  refine staysSound_of_owners (fun m o => ?_) (fun m => ?_) rfl rfl rfl
  · rw [setEntry_entry]
    split
    · rename_i hm; subst hm; exact sound o
    · exact o
  · rw [setEntry_entry]
    split
    · rename_i hm; subst hm; exact owner
    · rfl

theorem staysSound_renew : s.StaysSound (s.renew n) := s.staysSound_setEntry rfl (·.renewed)

/-- An axis gets another owner, and the change is reported behind all that was sent before. -/
theorem staysSound_reassign {e : ClaimEntry} (sound : e.Sound) (answered : Bool) :
    s.StaysSound ((s.setEntry n e).sendNotice [.report n e.owner answered]) := by
  refine ⟨fun o m => ?_, id, id, fun o m => ?_⟩
  · rw [sendNotice_entry, setEntry_entry]
    split
    · exact sound
    · exact o m
  · rw [sendNotice_entry, setEntry_entry, sendNotice_toNotice, reportedOwner_append, reportedOwner_report]
    by_cases hm : m = n
    · simp [hm]
    · simpa [hm, Ne.symm hm] using o m

theorem staysSound_grant (lease : Byte) : s.StaysSound (s.grant p n lease) :=
  s.staysSound_reassign n (ClaimEntry.sound_granted p lease) false

variable {s n p} in
/-- The owner takes its axis again, with a lease given. -/
theorem staysSound_regrant {t : State} (owner : (t.entry n).owner = some p) (lease : Byte) :
    t.StaysSound (t.setEntry n (.granted p lease)) :=
  t.staysSound_setEntry owner.symm fun _ => ClaimEntry.sound_granted p lease

theorem staysSound_endClaim : s.StaysSound (s.endClaim n) := s.staysSound_reassign n ClaimEntry.sound_free false

theorem staysSound_endClaims (f : AxisId → Bool) (answered : Bool) : s.StaysSound (s.endClaims f answered) := by
  refine ⟨fun o m => ?_, id, id, fun o m => ?_⟩
  · rw [endClaims_entry]
    split
    · exact ClaimEntry.sound_free
    · exact o m
  · have sent : (s.endClaims f answered).claim.toNotice =
        s.claim.toNotice ++ (allEight.filter f).map fun k => .report k none answered := rfl
    rw [endClaims_entry, sent, reportedOwner_append, reportedOwner_ended]
    by_cases hm : f m = true
    · simp [hm, ClaimEntry.free]
    · simpa [hm] using o m

/-! ## Messages -/

/-- What is no report may go to the notice unit. -/
theorem staysSound_sendNotice {m : NoticeMsg} (silent : ∀ n o, reportedOwner n o [m] = o) :
    s.StaysSound (s.sendNotice [m]) := by
  refine ⟨id, id, id, fun o k => ?_⟩
  rw [sendNotice_toNotice, reportedOwner_append, silent]
  exact o k

/-- The notice unit takes what is no report. -/
theorem staysSound_taken {s : State} {m : NoticeMsg} {rest : List NoticeMsg} (h : s.claim.toNotice = m :: rest)
    (silent : ∀ n o, reportedOwner n o [m] = o) : s.StaysSound { s with claim := { s.claim with toNotice := rest } } := by
  refine ⟨id, id, id, fun o k => ?_⟩
  have := o k
  rw [h, ← List.singleton_append, reportedOwner_append, silent] at this
  exact this

theorem staysSound_setPort {u : PortUnit} (hu : (s.port p).ErrorsSound → u.ErrorsSound) : s.StaysSound (s.setPort p u) :=
  .of_same rfl rfl rfl rfl fun o => o.setPort (hu (o p))

theorem staysSound_reply (r : Reply) : s.StaysSound (s.reply p r) := s.staysSound_setPort p id

theorem staysSound_claimTaken : s.StaysSound (s.claimTaken p) := .of_same rfl rfl rfl rfl id

theorem staysSound_sendAxis (x : AxisMsg) : s.StaysSound (s.sendAxis n x) := .of_same rfl rfl rfl rfl id

theorem staysSound_sendAxes (f : AxisId → Bool) (x : AxisMsg) : s.StaysSound (s.sendAxes f x) :=
  .of_same rfl rfl rfl rfl id

theorem staysSound_setAxis (a : Axis) : s.StaysSound (s.setAxis n a) := .of_same rfl rfl rfl rfl id

theorem staysSound_settle : s.StaysSound (s.settle p) := (s.settle_same p).staysSound (·.settle)

theorem staysSound_handHeld : s.StaysSound (s.handHeld p) := (s.handHeld_same p).staysSound (·.handHeld)

theorem staysSound_arrive (r : Reply) : s.StaysSound (s.arrive p r) := (s.arrive_same p r).staysSound (·.arrive)

theorem staysSound_collected : s.StaysSound (s.collected p) := (s.collected_same p).staysSound (·.collected)

/-- An axis controller's event reaches the ports with replies and answers alone. -/
theorem staysSound_finish (r : Axis × List Sent) : s.StaysSound (s.finish n r) := by
  refine .of_same (by rw [finish_claim]) (by rw [finish_claim]) (by rw [finish_notice]) (by rw [finish_notice])
    fun o q => ?_
  rw [finish_port]
  exact PortUnit.ErrorsSound.deliveredAll (o q) n q r.2

theorem staysSound_runAxis (a : Axis) (ts : List Task) : s.StaysSound (s.runAxis n a ts) := s.staysSound_finish n _

end State

end Sys2Proof.Machine
end

section
/-! Claims, error records and notice records kept sound, and the routing copy kept behind the claim table: the commands of
the ports, of start-up control, of the claim unit and of the notice unit. -/

namespace Sys2Proof.Machine

variable {s t : State} (n : AxisId) (p : Port)

/-! ## Ports -/

theorem execFrameStart_staysSound (h : execFrameStart p s = .next t) : s.StaysSound t := by
  cases h
  refine (s.staysSound_settle p).trans ?_
  dsimp only
  split
  · exact .refl _
  · split <;> exact State.staysSound_setPort _ _ id

theorem execFrameByte_staysSound (e : SckEdge) (h : execFrameByte p e s = .next t) : s.StaysSound t := by
  refine (execFrameByte_same p e h).staysSound fun o => ?_
  cases h
  dsimp only
  split
  · exact o.settle
  · exact o.settle.sckFalls
  · exact o.settle.sckRises

theorem execFrameEnd_staysSound (h : execFrameEnd p s = .next t) : s.StaysSound t := by
  cases h
  refine (s.staysSound_settle p).trans ?_
  dsimp only
  split
  · exact State.staysSound_setPort _ _ (·.endFrame)
  · exact .refl _

theorem execReplyArrival_staysSound (h : execReplyArrival p s = .next t) : s.StaysSound t := by
  cases h
  refine (s.staysSound_settle p).trans ?_
  dsimp only
  split
  · exact (State.staysSound_arrive ..).after (State.staysSound_setPort _ _ id)
  · exact .refl _

theorem execReadDevice_staysSound (h : execReadDevice p s = .next t) : s.StaysSound t := by
  cases h
  split
  · exact s.staysSound_arrive p _
  · exact .refl s

theorem execReadPortStatus_staysSound (h : execReadPortStatus p s = .next t) : s.StaysSound t := by
  cases h
  split
  · exact (State.staysSound_arrive ..).after (s.staysSound_setPort p id)
  · exact .refl s

theorem execClearPortErrors_staysSound (h : execClearPortErrors p s = .next t) : s.StaysSound t := by
  cases h
  split
  · exact (State.staysSound_arrive ..).after (s.staysSound_setPort p fun _ => PortUnit.errorsSound_of_clear rfl rfl)
  · exact .refl s

theorem execStartAnswer_staysSound (h : execStartAnswer p n s = .next t) : s.StaysSound t := by
  cases h
  refine (s.staysSound_settle p).trans ?_
  dsimp only
  split
  · exact (State.staysSound_collected ..).after (State.staysSound_setPort _ _ id)
  · exact .refl _

theorem execDetachAnswer_staysSound (src : AnswerSource) (h : execDetachAnswer p src s = .next t) : s.StaysSound t := by
  cases h
  refine (s.staysSound_settle p).trans ?_
  dsimp only
  split
  · split
    · exact (State.staysSound_collected ..).after (State.staysSound_setPort _ _ id)
    · exact .refl _
  · split
    · exact (State.staysSound_collected ..).after (State.staysSound_setPort _ _ id)
    · exact .refl _
  · exact .refl _

theorem execPortHaltLevel_staysSound (h : execPortHaltLevel p s = .next t) : s.StaysSound t := by
  cases h
  refine (s.staysSound_settle p).trans ?_
  dsimp only
  split
  · exact State.staysSound_setPort _ _ id
  · exact .refl _

/-! ## Start-up control and HALT -/

/-- A cold start is sound whatever came before it (R140, R157, R175, R180). -/
theorem State.staysSound_toCold (s : State) (start : StartUp) : s.StaysSound (s.toCold start) := by
  have entry (n : AxisId) : (s.toCold start).entry n = .free := Eight.get_same ..
  have port (p : Port) : (s.toCold start).port p = .cold (s.port p).sel := PerPort.get_map ..
  have record (p : Port) (n : AxisId) : (s.toCold start).notice.record p n = .empty := reset_record p n
  refine ⟨fun _ n => ?_, fun _ p => ?_, fun _ p n => ?_, fun _ n => ?_⟩
  · rw [entry]; exact ClaimEntry.sound_free
  · rw [port]; exact PortUnit.errorsSound_of_clear rfl rfl
  · rw [record]; exact NoticeRecord.sound_empty
  · rw [entry]; exact Eight.get_same ..

theorem execRstRelease_staysSound (supv : Bool) (h : execRstRelease supv s = .next t) : s.StaysSound t := by
  cases h
  split
  · exact s.staysSound_toCold _
  · exact .refl s

theorem execStartingEnd_staysSound (h : execStartingEnd s = .next t) : s.StaysSound t := by
  cases h
  split
  · exact .of_same rfl rfl rfl rfl id
  · exact .refl s

/-- A change of the filtered HALT level reaches the ports' mailboxes alone. -/
theorem State.staysSound_takeHalt (s : State) : s.StaysSound s.takeHalt :=
  .of_same rfl rfl rfl rfl fun o p => by
    rw [State.port, State.takeHalt, PerPort.get_map]
    exact o p

theorem execHaltPin_staysSound (asserted : Bool) (h : execHaltPin asserted s = .next t) : s.StaysSound t := by
  cases h
  split
  · exact .refl s
  · have filtered : s.StaysSound s.filterHalt := by
      unfold State.filterHalt
      split
      · exact s.staysSound_takeHalt
      · exact .refl s
    exact filtered.trans (.of_same rfl rfl rfl rfl id)

theorem execFilteredHaltChange_staysSound (h : execFilteredHaltChange s = .next t) : s.StaysSound t := by
  cases h
  split
  · exact (s.staysSound_advance _).trans (State.staysSound_takeHalt _)
  · exact .refl s

theorem execRestart_staysSound (h : execRestart p s = .next t) : s.StaysSound t := by
  cases h
  split
  · dsimp only
    split
    · exact (State.staysSound_reply ..).after (.of_same rfl rfl rfl rfl id)
    · exact .of_same rfl rfl rfl rfl id
  · exact .refl s

theorem State.staysSound_reachQuiet (s : State) : s.StaysSound s.reachQuiet := by
  unfold State.reachQuiet
  split
  · exact .of_same rfl rfl rfl rfl id
  · exact .refl s

theorem execQuietReport_staysSound (src : QuietSource) (h : execQuietReport src s = .next t) : s.StaysSound t := by
  cases h
  dsimp only
  split
  · split
    · exact (State.staysSound_reachQuiet _).after (.of_same rfl rfl rfl rfl id)
    · exact .refl s
  · split
    · exact (State.staysSound_reachQuiet _).after (.of_same rfl rfl rfl rfl id)
    · exact .refl s

/-- The restart's clear of both port units leaves clear error records (R175). -/
theorem State.staysSound_restartCleared (s : State) :
    s.StaysSound { s with ports := s.ports.map fun _ u => u.restartCleared } :=
  .of_same rfl rfl rfl rfl fun _ p => by
    rw [State.port, PerPort.get_map]
    exact PortUnit.errorsSound_of_clear rfl rfl

theorem State.staysSound_replyRestart (s : State) : s.StaysSound s.replyRestart := by
  unfold State.replyRestart
  split
  · exact s.staysSound_reply _ _
  · exact .refl s

theorem execRestartEnd_staysSound (h : execRestartEnd s = .next t) : s.StaysSound t := by
  cases h
  split
  · refine ((s.staysSound_settle .a).trans (State.staysSound_settle _ .b)).trans ?_
    refine (State.staysSound_restartCleared _).trans ?_
    refine (State.staysSound_handHeld _ .b).after ((State.staysSound_handHeld _ .a).after ?_)
    exact (State.staysSound_replyRestart _).trans (.of_same rfl rfl rfl rfl id)
  · exact .refl s

/-! ## The claim unit -/

theorem execAuthorisation_staysSound (h : execAuthorisation p s = .next t) : s.StaysSound t := by
  cases h
  have taken := s.staysSound_claimTaken p
  split
  · split
    · exact taken.trans (State.staysSound_reply ..)
    · split
      · exact (State.staysSound_sendAxis ..).after (taken.trans (State.staysSound_renew ..))
      · exact taken.trans (State.staysSound_reply ..)
  · exact .refl s

theorem execClaim_staysSound (h : execClaim p s = .next t) : s.StaysSound t := by
  cases h
  have taken := s.staysSound_claimTaken p
  split
  · split
    · exact taken.trans (State.staysSound_reply ..)
    · split
      · exact (State.staysSound_reply ..).after (taken.trans (State.staysSound_grant ..))
      · rename_i q ho
        split
        · rename_i hq
          subst hq
          exact (State.staysSound_reply ..).after (taken.trans (State.staysSound_regrant (t := s.claimTaken q) ho _))
        · exact taken.trans (State.staysSound_reply ..)
  · exact .refl s

theorem execRelease_staysSound (h : execRelease p s = .next t) : s.StaysSound t := by
  cases h
  have taken := s.staysSound_claimTaken p
  split
  · split
    · split
      · have ended (n : AxisId) := taken.trans (State.staysSound_endClaim _ n)
        split
        · exact (ended _).trans (State.staysSound_reply ..)
        · exact (ended _).trans (State.staysSound_sendAxis ..)
      · exact taken.trans (State.staysSound_reply ..)
    · exact taken.trans (State.staysSound_reply ..)
  · exact .refl s

theorem execKeep_staysSound (h : execKeep p s = .next t) : s.StaysSound t := by
  cases h
  split
  · exact (State.staysSound_reply ..).after ((s.staysSound_claimTaken p).trans (State.staysSound_renewAll ..))
  · exact .refl s

theorem execSeize_staysSound (h : execSeize p s = .next t) : s.StaysSound t := by
  cases h
  have taken := s.staysSound_claimTaken p
  split
  · rename_i lease _ _
    split
    · rename_i n keep _ _
      have granted := taken.trans (State.staysSound_grant _ n p lease)
      have lost (q : Port) := granted.trans (State.staysSound_sendNotice _ (m := .posting .lost n q) fun _ _ => rfl)
      split
      · split
        · exact granted.trans (State.staysSound_reply ..)
        · rename_i q ho
          split
          · rename_i hq
            subst hq
            exact (State.staysSound_reply ..).after (taken.trans (State.staysSound_regrant (t := s.claimTaken q) ho _))
          · split
            · exact (lost q).trans (State.staysSound_reply ..)
            · exact (lost q).trans (State.staysSound_sendAxis ..)
      · exact taken.trans (State.staysSound_reply ..)
    · exact taken.trans (State.staysSound_reply ..)
  · exact .refl s

theorem execDetach_staysSound (h : execDetach p s = .next t) : s.StaysSound t := by
  cases h
  split
  · have ended := (s.staysSound_claimTaken p).trans (State.staysSound_endClaims _ (s.owns p) false)
    have cleared := ended.trans (State.staysSound_sendNotice _ (m := .clear p) fun _ _ => rfl)
    exact (cleared.trans (State.staysSound_sendAxes _ (s.owns p) (.detach p))).trans (State.staysSound_setPort _ _ id)
  · exact .refl s

theorem execGo_staysSound (h : execGo p s = .next t) : s.StaysSound t := by
  cases h
  split
  · rename_i mask _
    have renewed := (s.staysSound_claimTaken p).trans (State.staysSound_renewAll _ (s.starts p mask))
    have sent := renewed.trans (State.staysSound_sendAxes _ (s.starts p mask) (.start p))
    exact (State.staysSound_collected ..).after (sent.trans (State.staysSound_setPort _ p id))
  · exact .refl s

theorem execLeaseExpiry_staysSound (h : execLeaseExpiry n s = .next t) : s.StaysSound t := by
  cases h
  split
  · split
    · exact .refl s
    · have ended := (s.staysSound_advance (s.entry n).leaseLeft).trans (State.staysSound_endClaim _ n)
      exact (ended.trans (State.staysSound_sendNotice _ fun _ _ => rfl)).trans (State.staysSound_sendAxis ..)
  · exact .refl s

theorem execClaimRestartStep_staysSound (h : execClaimRestartStep s = .next t) : s.StaysSound t := by
  cases h
  split
  · dsimp only
    refine (s.staysSound_endClaims (fun n => (s.entry n).owner.isSome) true).trans ?_
    split <;> exact .of_same rfl rfl rfl rfl id
  · exact .refl s

theorem execReportAnswer_staysSound (h : execReportAnswer s = .next t) : s.StaysSound t := by
  cases h
  split
  · exact .refl s
  · dsimp only
    split <;> exact .of_same rfl rfl rfl rfl id

/-! ## The notice unit -/

theorem execNoticePosting_staysSound (src : PostSource) (h : execNoticePosting src s = .next t) : s.StaysSound t := by
  cases h
  dsimp only
  split
  · split
    · rename_i n _ x rest _
      refine (s.staysSound_setAxis n { s.axis n with posts := rest }).trans ?_
      exact State.staysSound_notice (NoticeUnit.route_routing ..) (·.route n x)
    · exact .refl s
  · split
    · rename_i k n p rest hn
      exact (State.staysSound_taken hn fun _ _ => rfl).trans (State.staysSound_notice rfl (·.file p n k 0))
    · exact .refl s

/-- The report that is taken is the first on its way: the routing copy takes what it tells (R147). -/
theorem execOwnerChangeReport_staysSound (h : execOwnerChangeReport s = .next t) : s.StaysSound t := by
  cases h
  split
  · rename_i k owner answered rest hn
    refine ⟨id, id, id, fun o n => ?_⟩
    have told := o n
    rw [hn, ← List.singleton_append, reportedOwner_append, reportedOwner_report] at told
    dsimp only
    rw [Eight.get_set]
    rw [if_congr eq_comm rfl rfl] at told
    exact told
  · exact .refl s

theorem execDetachClear_staysSound (h : execDetachClear s = .next t) : s.StaysSound t := by
  cases h
  split
  · rename_i p rest hn
    have taken := State.staysSound_taken hn fun _ _ => rfl
    have cleared := taken.trans (State.staysSound_notice (u := { s.notice.emptyRecords p with
      watchMask := s.notice.watchMask.set p 0 }) rfl (·.emptyRecords p))
    exact cleared.trans (State.staysSound_setPort _ p id)
  · exact .refl s

theorem execRestartClear_staysSound (h : execRestartClear s = .next t) : s.StaysSound t := by
  cases h
  split
  · refine State.StaysSound.trans (State.staysSound_notice (u := { (s.notice.emptyRecords .a).emptyRecords .b with
      clearIn := false }) rfl fun o => ?_) (.of_same rfl rfl rfl rfl id)
    exact NoticeUnit.Sound.emptyRecords .b (o.emptyRecords .a)
  · exact .refl s

/-- A reply of the notice unit, with what the request has changed in it. -/
theorem State.staysSound_noticeReply {u : NoticeUnit} {r : Reply} (routing : u.routing = s.notice.routing)
    (sound : s.notice.Sound → u.Sound) : s.StaysSound (s.noticeReply p u r) :=
  (State.staysSound_reply ..).after (State.staysSound_notice routing sound)

theorem execReadNotices_staysSound (h : execReadNotices p s = .next t) : s.StaysSound t := by
  cases h
  split
  · split <;> exact State.staysSound_noticeReply p rfl id
  · exact .refl s

theorem execAckNotices_staysSound (h : execAckNotices p s = .next t) : s.StaysSound t := by
  cases h
  split
  · split
    · exact State.staysSound_noticeReply p rfl id
    · rename_i kinds _ _ n _
      exact State.staysSound_noticeReply p rfl fun o => o.setRecord p n ((o p n).acknowledge kinds)
  · exact .refl s

theorem execSetNoticeMask_staysSound (h : execSetNoticeMask p s = .next t) : s.StaysSound t := by
  cases h
  split
  · exact State.staysSound_noticeReply p rfl id
  · exact .refl s

theorem execSetWatch_staysSound (h : execSetWatch p s = .next t) : s.StaysSound t := by
  cases h
  split
  · exact State.staysSound_noticeReply p rfl id
  · exact .refl s

end Sys2Proof.Machine
end

section
/-! Claims, error records and notice records kept sound by every event of an axis controller and of the profile store,
and so by every step. -/

namespace Sys2Proof.Machine

variable {s t : State} (n : AxisId) (p : Port)

/-! ## Axis controllers: what the claim unit and the ports send them -/

/-- What an axis controller's event that ends no exchange can make of the state: nothing, or the axis put back with what
its tasks send. -/
inductive State.AxisEvent (s : State) (n : AxisId) : State → Prop where
  | absent : s.AxisEvent n s
  | set (a : Axis) : s.AxisEvent n (s.setAxis n a)
  | tasks (a : Axis) (ts : List Task) : s.AxisEvent n (s.runAxis n a ts)

theorem State.AxisEvent.staysSound (h : s.AxisEvent n t) : s.StaysSound t := by
  cases h
  case absent => exact .refl s
  case set a => exact s.staysSound_setAxis n a
  case tasks a ts => exact s.staysSound_runAxis n a ts

/-- The axis controller that takes with a command what the claim unit, a port or the HALT filter has sent it. -/
def axisTakerOf : Instr → Option AxisId
  | .axisHaltChange n => some n
  | .axisRestartStep n => some n
  | .releaseAction n => some n
  | .seizeAction n => some n
  | .detachAction n => some n
  | .lapseAction n => some n
  | .start n => some n
  | .enable n => some n
  | .disable n => some n
  | .configure n => some n
  | .setPosition n => some n
  | .clearFault n => some n
  | .queue n => some n
  | .cancel n => some n
  | .pause n => some n
  | .resume n => some n
  | .skip n => some n
  | .stop n => some n
  | .readAxis n _ => some n
  | .claimAsk n => some n
  | .claimAnswer n => some n
  | .readQueue n _ => some n
  | _ => none

/-- Each branch of what an axis controller takes ends in a list of tasks or in an exchange to wait for. -/
theorem exec_axisEvent {c : Instr} (hc : axisTakerOf c = some n) (h : exec c s = .next t) : s.AxisEvent n t := by
  cases c
  case axisHaltChange | claimAsk =>
    cases hc; cases h
    split
    · exact .set _
    · exact .absent
  case axisRestartStep | releaseAction | seizeAction | detachAction | lapseAction | cancel | stop | claimAnswer | readQueue =>
    cases hc; cases h
    split
    · exact .tasks ..
    · exact .absent
  case start | enable | disable | clearFault | pause | resume =>
    cases hc; cases h
    split
    · split <;> exact .tasks ..
    · exact .absent
  case readAxis =>
    cases hc; cases h
    split
    · exact .set _
    · exact .tasks ..
    · exact .absent
  case setPosition =>
    cases hc; cases h
    split
    · split
      · split <;> exact .tasks ..
      · exact .tasks ..
    · exact .absent
  case configure =>
    cases hc; cases h
    split
    · split
      · split
        · exact .tasks ..
        · split
          · exact .set _
          · exact .tasks ..
      · exact .tasks ..
    · exact .absent
  case skip =>
    cases hc; cases h
    split
    · split
      · exact .tasks ..
      · exact .tasks ..
      · exact .tasks ..
      · exact .tasks ..
      · split
        · exact .tasks ..
        · split <;> exact .tasks ..
      · exact .tasks ..
      · exact .tasks ..
    · exact .absent
  case queue =>
    cases hc; cases h
    split
    · split
      · exact .tasks ..
      · exact .tasks ..
      · split
        · exact .tasks ..
        · split
          · exact .tasks ..
          · split
            · exact .tasks ..
            · exact .set _
    · exact .absent
  all_goals cases hc

/-! ## Steps and pulses -/

theorem State.staysSound_endPulse (pl : Pulse) : s.StaysSound (s.endPulse n pl) :=
  (State.staysSound_finish ..).after (s.staysSound_advance _)

theorem execPulseEnd_staysSound (h : execPulseEnd n s = .next t) : s.StaysSound t := by
  cases h
  split
  · split
    · exact State.staysSound_endPulse n _
    · exact .refl s
  · exact .refl s

theorem execPeriodExpiry_staysSound (h : execPeriodExpiry n s = .next t) : s.StaysSound t := by
  cases h
  split
  · exact .refl s
  · dsimp only
    split
    · split
      · exact State.staysSound_endPulse n _
      · exact .refl s
    · exact (State.staysSound_finish ..).after (s.staysSound_advance _)

theorem execOvercurrent_staysSound (h : execOvercurrent n s = .next t) : s.StaysSound t := by
  cases h
  dsimp only
  split
  · split
    · exact s.staysSound_finish n _
    · exact s.staysSound_setAxis n _
  · exact .refl s

/-! ## The profile store and its exchanges -/

theorem State.staysSound_storeReply (s : State) (r : Reply) : s.StaysSound (s.storeReply p r) :=
  (State.staysSound_reply ..).after (.of_same rfl rfl rfl rfl id)

theorem execDefineProfile_staysSound (h : execDefineProfile p s = .next t) : s.StaysSound t := by
  cases h
  split
  · split
    · split
      · exact s.staysSound_storeReply p _
      · split
        · exact s.staysSound_storeReply p _
        · exact (State.staysSound_storeReply ..).after (.of_same rfl rfl rfl rfl id)
    · exact s.staysSound_storeReply p _
  · exact .refl s

theorem execDeleteProfile_staysSound (h : execDeleteProfile p s = .next t) : s.StaysSound t := by
  cases h
  split
  · split
    · split
      · exact s.staysSound_storeReply p _
      · split
        · exact s.staysSound_storeReply p _
        · exact (State.staysSound_storeReply ..).after (.of_same rfl rfl rfl rfl id)
    · exact s.staysSound_storeReply p _
  · exact .refl s

theorem execReadProfile_staysSound (h : execReadProfile p s = .next t) : s.StaysSound t := by
  cases h
  split
  · split <;> exact s.staysSound_storeReply p _
  · exact .refl s

theorem execAdmissionTake_staysSound (h : execAdmissionTake n s = .next t) : s.StaysSound t := by
  cases h
  split
  · split
    · split
      · exact (State.staysSound_runAxis ..).after (.of_same rfl rfl rfl rfl id)
      · exact s.staysSound_runAxis n _ _
    · exact .refl s
  · exact .refl s

theorem execConfigurationExchange_staysSound (h : execConfigurationExchange n s = .next t) : s.StaysSound t := by
  cases h
  split
  · split
    · exact (State.staysSound_runAxis ..).after (.of_same rfl rfl rfl rfl id)
    · exact s.staysSound_runAxis n _ _
  · exact .refl s

theorem execParkTake_staysSound (h : execParkTake n s = .next t) : s.StaysSound t := by
  cases h
  split
  · split
    · exact (State.staysSound_finish ..).after (.of_same rfl rfl rfl rfl id)
    · exact s.staysSound_runAxis n _ _
  · exact .refl s

theorem execGive_staysSound (h : execGive n s = .next t) : s.StaysSound t := by
  cases h
  split
  · dsimp only
    split
    · split
      · exact (State.staysSound_runAxis ..).after (.of_same rfl rfl rfl rfl id)
      · exact s.staysSound_runAxis n _ _
    · exact s.staysSound_runAxis n _ _
  · exact .refl s

/-! ## Every command, and every step -/

theorem exec_staysSound (c : Instr) (h : exec c s = .next t) : s.StaysSound t := by
  cases hc : axisTakerOf c with
  | some n => exact (exec_axisEvent n hc h).staysSound n
  | none =>
    cases c
    case rstLow => cases h; exact s.staysSound_toCold _
    case rstRelease supv => exact execRstRelease_staysSound supv h
    case startingEnd => exact execStartingEnd_staysSound h
    case haltPin asserted => exact execHaltPin_staysSound asserted h
    case filteredHaltChange => exact execFilteredHaltChange_staysSound h
    case portHaltLevel p => exact execPortHaltLevel_staysSound p h
    case frameStart p => exact execFrameStart_staysSound p h
    case frameByte p e => exact execFrameByte_staysSound p e h
    case frameEnd p => exact execFrameEnd_staysSound p h
    case replyArrival p => exact execReplyArrival_staysSound p h
    case readDevice p => exact execReadDevice_staysSound p h
    case readPortStatus p => exact execReadPortStatus_staysSound p h
    case clearPortErrors p => exact execClearPortErrors_staysSound p h
    case restart p => exact execRestart_staysSound p h
    case claimRestartStep => exact execClaimRestartStep_staysSound h
    case reportAnswer => exact execReportAnswer_staysSound h
    case quietReport src => exact execQuietReport_staysSound src h
    case restartClear => exact execRestartClear_staysSound h
    case restartEnd => exact execRestartEnd_staysSound h
    case claim p => exact execClaim_staysSound p h
    case release p => exact execRelease_staysSound p h
    case keep p => exact execKeep_staysSound p h
    case seize p => exact execSeize_staysSound p h
    case detach p => exact execDetach_staysSound p h
    case detachClear => exact execDetachClear_staysSound h
    case detachAnswer p src => exact execDetachAnswer_staysSound p src h
    case leaseExpiry n => exact execLeaseExpiry_staysSound n h
    case authorisation p => exact execAuthorisation_staysSound p h
    case go p => exact execGo_staysSound p h
    case startAnswer p n => exact execStartAnswer_staysSound n p h
    case defineProfile p => exact execDefineProfile_staysSound p h
    case deleteProfile p => exact execDeleteProfile_staysSound p h
    case readProfile p => exact execReadProfile_staysSound p h
    case admissionTake n => exact execAdmissionTake_staysSound n h
    case configurationExchange n => exact execConfigurationExchange_staysSound n h
    case parkTake n => exact execParkTake_staysSound n h
    case give n => exact execGive_staysSound n h
    case periodExpiry n => exact execPeriodExpiry_staysSound n h
    case pulseEnd n => exact execPulseEnd_staysSound n h
    case overcurrent n => exact execOvercurrent_staysSound n h
    case noticePosting src => exact execNoticePosting_staysSound src h
    case ownerChangeReport => exact execOwnerChangeReport_staysSound h
    case readNotices p => exact execReadNotices_staysSound p h
    case ackNotices p => exact execAckNotices_staysSound p h
    case setNoticeMask p => exact execSetNoticeMask_staysSound p h
    case setWatch p => exact execSetWatch_staysSound p h
    all_goals cases hc

/-- Settles O59: each command keeps the four, and so does the passing of a du. -/
theorem everyStepKeepsClaimsPortsAndNoticesSound : Obligations.EveryStepKeepsClaimsPortsAndNoticesSound := by
  intro s t h
  have kept : s.StaysSound t := by
    rcases step_cases h with rfl | ⟨c, rest, hc⟩
    · exact s.staysSound_advance 1
    · have front : s.StaysSound { s with pending := rest } := .of_same rfl rfl rfl rfl id
      exact front.trans (exec_staysSound c hc)
  exact ⟨kept.claims, kept.ports, kept.notices, kept.routing⟩

end Sys2Proof.Machine
end

section
/-! What the notice unit's records, masks and attention summary say kind by kind (8 R144 to R153). -/

namespace Sys2Proof.Machine

/-! ## Kinds and their bits (10 Table 10-4) -/

/-- The kind that a bit of a kind set stands for (Table 10-4). -/
def NoticeKind.ofBit : Fin 8 → NoticeKind :=
  ![.done, .low, .idle, .limit, .trunc, .fault, .lapsed, .lost]

@[simp] theorem NoticeKind.ofBit_bit (k : NoticeKind) : NoticeKind.ofBit k.bit = k := by
  cases k <;> rfl

@[simp] theorem NoticeKind.bit_ofBit (n : Fin 8) : (NoticeKind.ofBit n).bit = n := by
  revert n; decide

theorem NoticeKind.bit_inj {j k : NoticeKind} : j.bit = k.bit ↔ j = k :=
  (Function.LeftInverse.injective NoticeKind.ofBit_bit).eq_iff

theorem NoticeKind.set_getLsbD (j k : NoticeKind) : k.set.getLsbD j.bit.val = true ↔ j = k := by
  rw [NoticeKind.set, oneMask_getLsbD, beq_iff_eq, NoticeKind.bit_inj]

/-- A mask of axes is not empty exactly when it names one (R176). -/
theorem mask_ne_zero_iff (x : Byte) : x ≠ 0 ↔ ∃ n : AxisId, x.getLsbD n.val = true := by
  constructor
  · intro hx
    by_contra hnone
    push Not at hnone
    exact hx (mask_ext fun n => by simpa using hnone n)
  · rintro ⟨n, hn⟩ rfl
    simp at hn

/-- A kind set is not empty exactly when it holds a kind (Table 10-4). -/
theorem kinds_ne_zero_iff (x : Byte) : x ≠ 0 ↔ ∃ k : NoticeKind, x.getLsbD k.bit.val = true := by
  rw [mask_ne_zero_iff]
  constructor
  · rintro ⟨n, hn⟩
    exact ⟨.ofBit n, by rwa [NoticeKind.bit_ofBit]⟩
  · rintro ⟨k, hk⟩
    exact ⟨k.bit, hk⟩

/-! ## One record: filing and acknowledging (R144, R153) -/

section

variable (r : NoticeRecord) (k : NoticeKind) (tag kinds : Byte)

theorem NoticeRecord.file_pending : (r.file k tag).pending = r.pending ||| k.set := by
  cases k <;> rfl

/-- After a filing the kind filed is pending beside those that were. -/
theorem NoticeRecord.file_pending_getLsbD (j : NoticeKind) :
    (r.file k tag).pending.getLsbD j.bit.val = true ↔ j = k ∨ r.pending.getLsbD j.bit.val = true := by
  rw [NoticeRecord.file_pending, BitVec.getLsbD_or, Bool.or_eq_true, NoticeKind.set_getLsbD, or_comm]

/-- Every kind but DONE files its bit alone. -/
theorem NoticeRecord.file_of_ne_done {k : NoticeKind} (h : k ≠ .done) :
    r.file k tag = { r with pending := r.pending ||| k.set } := by
  cases k with
  | done => exact absurd rfl h
  | _ => rfl

theorem NoticeRecord.acknowledge_pending : (r.acknowledge kinds).pending = r.pending &&& ~~~kinds := by
  unfold NoticeRecord.acknowledge
  split <;> rfl

/-- After an acknowledgement the kinds that were pending and not named are pending. -/
theorem NoticeRecord.acknowledge_pending_getLsbD (i : Nat) :
    (r.acknowledge kinds).pending.getLsbD i = true ↔
      r.pending.getLsbD i = true ∧ kinds.getLsbD i = false := by
  rw [NoticeRecord.acknowledge_pending, BitVec.getLsbD_and, BitVec.getLsbD_not, Bool.and_eq_true]
  refine and_congr_right fun hi => ?_
  simp [BitVec.lt_of_getLsbD hi]

theorem NoticeRecord.acknowledge_done {kinds : Byte} (h : kinds.getLsbD 0 = true) :
    r.acknowledge kinds = { pending := r.pending &&& ~~~kinds, lastDoneTag := 0, doneCount := 0 } :=
  if_pos h

theorem NoticeRecord.acknowledge_other {kinds : Byte} (h : kinds.getLsbD 0 = false) :
    r.acknowledge kinds = { r with pending := r.pending &&& ~~~kinds } :=
  if_neg (Bool.eq_false_iff.1 h)

end

/-! ## Filing for the ports reached (R145, R146) -/

section

/-- `v` is `u` with a notice for axis `n` filed for the ports reached, once each, and nothing else changed. -/
structure NoticeUnit.Filed (u v : NoticeUnit) (n : AxisId) (k : NoticeKind) (tag : Byte) (reached : Port → Prop) :
    Prop where
  same : v = { u with records := v.records }
  record : ∀ q, reached q → v.record q n = (u.record q n).file k tag
  others : ∀ q m, m ≠ n ∨ ¬ reached q → v.record q m = u.record q m

theorem NoticeUnit.record_file (u : NoticeUnit) (p q : Port) (n m : AxisId) (k : NoticeKind) (tag : Byte) :
    (u.file p n k tag).record q m = if q = p ∧ m = n then (u.record q m).file k tag else u.record q m := by
  rw [NoticeUnit.file, NoticeUnit.record_setRecord]
  split
  · rename_i h
    obtain ⟨rfl, rfl⟩ := h
    rfl
  · rfl

/-- One port's part of a routed posting (R145). -/
theorem NoticeUnit.record_fileIf (u : NoticeUnit) (b : Bool) (p q : Port) (n m : AxisId) (k : NoticeKind) (tag : Byte) :
    (if b then u.file p n k tag else u).record q m =
      if (q = p ∧ m = n) ∧ b = true then (u.record q m).file k tag else u.record q m := by
  cases b
  · simp
  · simp [NoticeUnit.record_file]

/-- A filing in one port's record. -/
theorem NoticeUnit.file_filed (u : NoticeUnit) (p : Port) (n : AxisId) (k : NoticeKind) (tag : Byte) :
    u.Filed (u.file p n k tag) n k tag (· = p) where
  same := rfl
  record := by
    rintro q rfl
    rw [NoticeUnit.record_file, if_pos ⟨rfl, rfl⟩]
  others q m h := by
    rw [NoticeUnit.record_file, if_neg (by tauto)]

variable {u v : NoticeUnit} {n : AxisId} {k : NoticeKind} {tag : Byte} {reached : Port → Prop}

theorem NoticeUnit.Filed.congr {reached' : Port → Prop} (h : u.Filed v n k tag reached)
    (hr : ∀ q, reached' q ↔ reached q) : u.Filed v n k tag reached' := by
  rwa [show reached' = reached from funext fun q => propext (hr q)]

/-- The tag of a posting that is no DONE is not used (R143). -/
theorem NoticeUnit.Filed.of_ne_done {tag' : Byte} (hk : k ≠ .done) (h : u.Filed v n k tag' reached) :
    u.Filed v n k tag reached where
  same := h.same
  record q hq := by
    rw [h.record q hq, NoticeRecord.file_of_ne_done _ _ hk, NoticeRecord.file_of_ne_done _ _ hk]
  others := h.others

theorem NoticeUnit.reaches_iff (u : NoticeUnit) (p : Port) (n : AxisId) :
    u.reaches p n = true ↔ u.routing.get n = some p ∨ (u.watchMask.get p).getLsbD n.val = true := by
  rw [NoticeUnit.reaches, Bool.or_eq_true, beq_iff_eq]
  rfl

/-- The record that a routed posting leaves: filed once where it reaches the port, and else as it was. -/
theorem NoticeUnit.record_route (u : NoticeUnit) (n m : AxisId) (x : Posting) (q : Port) :
    (u.route n x).record q m =
      if m = n ∧ u.reaches q n = true then (u.record q m).file x.kind x.tag else u.record q m := by
  unfold NoticeUnit.route
  dsimp only
  rw [NoticeUnit.record_fileIf, NoticeUnit.record_fileIf]
  cases q
  · simp
  · simp

theorem NoticeUnit.route_filed (u : NoticeUnit) (n : AxisId) (x : Posting) :
    u.Filed (u.route n x) n x.kind x.tag (fun q => u.reaches q n = true) where
  same := by
    unfold NoticeUnit.route
    dsimp only
    split <;> split <;> rfl
  record q hq := by rw [NoticeUnit.record_route, if_pos ⟨rfl, hq⟩]
  others q m h := by rw [NoticeUnit.record_route, if_neg (by tauto)]

end

/-! ## Attention (R150, R151) -/

theorem NoticeUnit.summary_getLsbD (u : NoticeUnit) (p : Port) (n : AxisId) :
    (u.summary p).getLsbD n.val = true ↔
      ∃ k : NoticeKind, (u.record p n).pending.getLsbD k.bit.val = true ∧
        (u.noticeMask.get p).getLsbD k.bit.val = true := by
  rw [NoticeUnit.summary, maskOf_getLsbD, bne_iff_ne, kinds_ne_zero_iff]
  simp only [BitVec.getLsbD_and, Bool.and_eq_true]

/-- The attention line is active, once READY, exactly when the summary names an axis. -/
theorem State.attentionPin_iff (s : State) (p : Port) :
    s.attentionPin p = true ↔ s.readyPin = true ∧ ∃ n : AxisId, (s.notice.summary p).getLsbD n.val = true := by
  rw [State.attentionPin, Bool.and_eq_true, NoticeUnit.attention, bne_iff_ne, mask_ne_zero_iff]
  rfl

end Sys2Proof.Machine
end

section
/-! What the notice unit takes: postings, owner-change reports, the clears of a DETACH and of a RESTART, and the notice
requests of the ports (8 R142 to R156, 11 R184). -/

namespace Sys2Proof.Machine

/-! ## Postings -/

section

variable {s : State} {p : Port} {n : AxisId}

theorem exec_noticePosting_axis {x : Posting} {rest : List Posting} (h : (s.axis n).posts = x :: rest) :
    exec (.noticePosting (.axis n)) s =
      .next { s.setAxis n { s.axis n with posts := rest } with notice := s.notice.route n x } := by
  simp only [exec, execNoticePosting, h]

theorem exec_noticePosting_claimUnit {k : NoticeKind} {rest : List NoticeMsg}
    (h : s.claim.toNotice = .posting k n p :: rest) :
    exec (.noticePosting .claimUnit) s =
      .next { s with claim := { s.claim with toNotice := rest }, notice := s.notice.file p n k 0 } := by
  simp only [exec, execNoticePosting, h]

end

/-- Settles O53: by the source; the record of a port reached is filed once, and any other is left. -/
theorem postingsAreFiledWhereTheyBelong : Obligations.PostingsAreFiledWhereTheyBelong := by
  intro s src n k tag reached u hsrc
  obtain ⟨v, hexec, filed⟩ : ∃ v, exec (.noticePosting src) s = .next { u with notice := v } ∧
      s.notice.Filed v n k tag reached := by
    cases src with
    | axis m =>
      obtain ⟨rfl, rest, hposts, rfl, hreached⟩ := hsrc
      exact ⟨_, exec_noticePosting_axis hposts, (s.notice.route_filed m ⟨k, tag⟩).congr fun q =>
        (hreached q).trans (s.notice.reaches_iff q m).symm⟩
    | claimUnit =>
      obtain ⟨hk, p, rest, hmsgs, rfl, hreached⟩ := hsrc
      exact ⟨_, exec_noticePosting_claimUnit hmsgs, ((s.notice.file_filed p n k 0).congr hreached).of_ne_done hk⟩
  refine ⟨_, hexec, congrArg (fun w => { u with notice := w }) filed.same, fun q m => ⟨filed.others q m, ?_⟩⟩
  rintro rfl hq
  rw [filed.record q hq]
  refine ⟨NoticeRecord.file_pending_getLsbD _ k tag, fun hk => ?_, ?_⟩
  · rw [NoticeRecord.file_of_ne_done _ _ hk]
    exact ⟨rfl, rfl⟩
  · rintro rfl
    exact ⟨rfl, rfl⟩

/-! ## Notice requests -/

section

variable {s : State} {p : Port} {n : AxisId} {axis kinds : Byte}

theorem exec_readNotices_badArgument (hin : s.notice.inbox.get p = some (.readNotices axis)) (h : axisOf axis = none) :
    exec (.readNotices p) s = .next (s.noticeReply p s.notice (refusal .badArgument)) := by
  simp only [exec, execReadNotices, hin, h]

theorem exec_readNotices (hin : s.notice.inbox.get p = some (.readNotices axis)) (hn : axisOf axis = some n) :
    exec (.readNotices p) s = .next (s.noticeReply p s.notice (replyOk (s.notice.record p n).data)) := by
  simp only [exec, execReadNotices, hin, hn]

theorem exec_ackNotices_badArgument (hin : s.notice.inbox.get p = some (.ackNotices axis kinds))
    (h : axisOf axis = none) :
    exec (.ackNotices p) s = .next (s.noticeReply p s.notice (refusal .badArgument)) := by
  simp only [exec, execAckNotices, hin, h]

theorem exec_ackNotices (hin : s.notice.inbox.get p = some (.ackNotices axis kinds)) (hn : axisOf axis = some n) :
    exec (.ackNotices p) s =
      .next (s.noticeReply p (s.notice.setRecord p n ((s.notice.record p n).acknowledge kinds))
        (replyOk (s.notice.record p n).data)) := by
  simp only [exec, execAckNotices, hin, hn]

theorem exec_setNoticeMask (hin : s.notice.inbox.get p = some (.setNoticeMask kinds)) :
    exec (.setNoticeMask p) s =
      .next (s.noticeReply p { s.notice with noticeMask := s.notice.noticeMask.set p kinds } (replyOk [])) := by
  simp only [exec, execSetNoticeMask, hin]

theorem exec_setWatch {mask : Byte} (hin : s.notice.inbox.get p = some (.setWatch mask)) :
    exec (.setWatch p) s =
      .next (s.noticeReply p { s.notice with watchMask := s.notice.watchMask.set p mask } (replyOk [])) := by
  simp only [exec, execSetWatch, hin]

end

/-- Settles O56: a set of kinds or of axes is not empty where it holds one of them. -/
theorem masksDecideAttention : Obligations.MasksDecideAttention := by
  refine ⟨?_, fun s p => ⟨s.notice.summary_getLsbD p, ?_⟩⟩
  · rintro s _ p x rfl
    exact ⟨exec_setNoticeMask, exec_setWatch⟩
  · simp only [State.attentionPin_iff, NoticeUnit.summary_getLsbD]

/-- Settles O55: the reply holds the record as it was found, and what is left is that record acknowledged. -/
theorem noticesAreReadAndAcknowledged : Obligations.NoticesAreReadAndAcknowledged := by
  rintro s _ p axis rfl
  refine ⟨fun hin => ⟨fun h8 => ?_, ?_⟩, fun kinds hin => ⟨fun h8 => ?_, ?_⟩⟩
  · exact exec_readNotices_badArgument hin (axisOf_of_ge h8)
  · rintro n _ hn rfl
    exact exec_readNotices hin (axisOf_of_val hn)
  · exact exec_ackNotices_badArgument hin (axisOf_of_ge h8)
  · rintro n r hn rfl
    refine ⟨_, exec_ackNotices hin (axisOf_of_val hn), NoticeRecord.acknowledge_pending_getLsbD _ kinds,
      fun hdone => ?_, fun hdone => ?_⟩
    · rw [NoticeRecord.acknowledge_done _ hdone]
      exact ⟨rfl, rfl⟩
    · rw [NoticeRecord.acknowledge_other _ hdone]
      exact ⟨rfl, rfl⟩

/-! ## Reports and the clear of a DETACH -/

section

variable {s : State} {p : Port} {n : AxisId}

theorem exec_ownerChangeReport {owner : Owner} {answered : Bool} {rest : List NoticeMsg}
    (h : s.claim.toNotice = .report n owner answered :: rest) :
    exec .ownerChangeReport s =
      .next
        { s with
          claim :=
            { s.claim with
              toNotice := rest
              answersIn := if answered then s.claim.answersIn + 1 else s.claim.answersIn }
          notice := { s.notice with routing := s.notice.routing.set n owner } } := by
  simp only [exec, execOwnerChangeReport, h]

theorem exec_detachClear {rest : List NoticeMsg} (h : s.claim.toNotice = .clear p :: rest) :
    exec .detachClear s =
      .next
        (State.setPort
          { s with
            claim := { s.claim with toNotice := rest }
            notice := { s.notice.emptyRecords p with watchMask := s.notice.watchMask.set p 0 } }
          p { s.port p with clearAnswer := true }) := by
  simp only [exec, execDetachClear, h]

end

/-- Settles O54: each is the oldest message of the claim unit, and is taken whole. -/
theorem reportsWriteTheRoutingAndADetachClears : Obligations.ReportsWriteTheRoutingAndADetachClears :=
  ⟨fun _ _ _ _ _ h => exec_ownerChangeReport h, fun _ _ _ h => exec_detachClear h⟩

/-! ## The quiet reports and the clear of a RESTART -/

section

variable {s : State} {n : AxisId}

theorem StartUp.allQuiet_iff (u : StartUp) :
    u.allQuiet = true ↔ u.doneSeen = true ∧ ∀ n, u.quietSeen.get n = true := by
  simp [StartUp.allQuiet]

theorem State.reachQuiet_reached (hp : s.start.phase = .restartStopping) (hq : s.start.allQuiet = true) :
    s.reachQuiet =
      { s with start := { s.start with phase := .restartClearing }, notice := { s.notice with clearIn := true } } :=
  if_pos ⟨hp, hq⟩

theorem State.reachQuiet_waits (h : s.start.allQuiet = false) : s.reachQuiet = s :=
  if_neg fun ⟨_, hq⟩ => Bool.eq_false_iff.1 h hq

theorem exec_quietReport_axis (h : s.start.quietSent.get n = true) :
    exec (.quietReport (.axis n)) s =
      .next (State.reachQuiet
        { s with
          start :=
            { s.start with
              quietSent := s.start.quietSent.set n false
              quietSeen := s.start.quietSeen.set n true } }) := by
  simp only [exec, execQuietReport, h, if_true]

theorem exec_quietReport_claimUnit (h : s.start.doneSent = true) :
    exec (.quietReport .claimUnit) s =
      .next (State.reachQuiet { s with start := { s.start with doneSent := false, doneSeen := true } }) := by
  simp only [exec, execQuietReport, h, if_true]

theorem exec_restartClear (hc : s.notice.clearIn = true) (hw : s.postingWaits = false) :
    exec .restartClear s =
      .next
        { s with
          notice := { (s.notice.emptyRecords .a).emptyRecords .b with clearIn := false }
          start := { s.start with clearAnswered := true } } := by
  simp [exec, execRestartClear, hc, hw]

theorem exec_restartClear_waits (hw : s.postingWaits = true) : exec .restartClear s = .next s := by
  simp [exec, execRestartClear, hw]

/-- The two clears of a RESTART leave no record of either port (R156). -/
theorem NoticeUnit.record_emptyRecords_both (u : NoticeUnit) (q : Port) (m : AxisId) :
    ((u.emptyRecords .a).emptyRecords .b).record q m = .empty := by
  cases q <;> simp [NoticeUnit.record_emptyRecords]

end

/-- Settles O20: a report is remembered first, and quiet is then reached where all nine are; the clear looks for the postings
on their way. -/
theorem nineReportsBringTheClear : Obligations.NineReportsBringTheClear := by
  refine ⟨fun s src u hsrc => ?_, fun s hclear => ⟨fun hposts hmsgs => ?_, fun hwaits => ?_⟩⟩
  · obtain ⟨hphase, hexec⟩ : u.phase = s.start.phase ∧
        exec (.quietReport src) s = .next (State.reachQuiet { s with start := u }) := by
      cases src with
      | axis n =>
        obtain ⟨hsent, rfl⟩ := hsrc
        exact ⟨rfl, exec_quietReport_axis hsent⟩
      | claimUnit =>
        obtain ⟨hsent, rfl⟩ := hsrc
        exact ⟨rfl, exec_quietReport_claimUnit hsent⟩
    rw [hexec]
    refine ⟨fun hp hdone hquiet => ?_, fun hmissing => ?_⟩
    · rw [State.reachQuiet_reached (hphase.trans hp) (u.allQuiet_iff.2 ⟨hdone, hquiet⟩)]
    · have hnot : u.allQuiet = false := by
        rw [Bool.eq_false_iff, ne_eq, StartUp.allQuiet_iff]
        rintro ⟨hdone, hquiet⟩
        rcases hmissing with h | ⟨n, h⟩
        · exact Bool.eq_false_iff.1 h hdone
        · exact Bool.eq_false_iff.1 h (hquiet n)
      rw [State.reachQuiet_waits hnot]
  · exact ⟨_, exec_restartClear hclear (s.postingWaits_eq_false_iff.2 ⟨hmsgs, hposts⟩),
      fun q m => NoticeUnit.record_emptyRecords_both s.notice q m, rfl⟩
  · refine exec_restartClear_waits (eq_true_of_ne_false fun hnone => ?_)
    obtain ⟨hmsgs, hposts⟩ := s.postingWaits_eq_false_iff.1 hnone
    rcases hwaits with ⟨n, hn⟩ | ⟨k, n, q, hmem⟩
    · exact hn (hposts n)
    · exact hmsgs k n q hmem

end Sys2Proof.Machine
end

section
/-! Requests as bytes: each is read back from the bytes that spell it, and the check byte tells one changed byte (9 R163,
R164, 10 R176, Table 10-1). -/

namespace Sys2Proof

/-! ## From a request to its bytes and back -/

/-- The bytes that spell a request are a code and as many argument bytes as it fixes (R164). -/
theorem encodeRequest_wellFormed (r : Request) : requestWellFormed (encodeRequest r) = true := by
  cases r with
  | mutate axis m => cases m <;> rfl
  | _ => rfl

theorem parseRequest_encodeMutation (axis : Byte) (m : Mutation) :
    parseRequest (encodeMutation axis m) = some (.mutate axis m) := by
  cases m with
  | configure c => simp [parseRequest, encodeMutation, wordBytes, requestOf, configureRequest]
  | setPosition v => simp [parseRequest, encodeMutation, wordBytes, requestOf, args3]
  | queue q => simp [parseRequest, encodeMutation, wordBytes, requestOf, queueRequest]
  | _ => rfl

theorem parseRequest_encodeRequest (r : Request) : parseRequest (encodeRequest r) = some r := by
  cases r with
  | mutate axis m => exact parseRequest_encodeMutation axis m
  | _ => rfl

/-! ## From bytes to a request and back -/

section

variable {code : Byte} {k : Nat} {args : List Byte} {r : Request}

theorem byte_eq_ofNat (hc : code.toNat = k) : code = BitVec.ofNat 8 k := by
  rw [← hc, BitVec.ofNat_toNat, BitVec.setWidth_eq]

theorem encodeRequest_args0 {q : Request} (hc : code.toNat = k) (hq : encodeRequest q = [.ofNat 8 k])
    (h : args0 q args = some r) : encodeRequest r = code :: args := by
  obtain rfl := byte_eq_ofNat hc
  match args, h with
  | [], rfl => exact hq

theorem encodeRequest_args1 {f : Byte → Request} (hc : code.toNat = k) (hf : ∀ x, encodeRequest (f x) = [.ofNat 8 k, x])
    (h : args1 f args = some r) : encodeRequest r = code :: args := by
  obtain rfl := byte_eq_ofNat hc
  match args, h with
  | [x], rfl => exact hf x

theorem encodeRequest_args2 {f : Byte → Byte → Request} (hc : code.toNat = k)
    (hf : ∀ x y, encodeRequest (f x y) = [.ofNat 8 k, x, y]) (h : args2 f args = some r) :
    encodeRequest r = code :: args := by
  obtain rfl := byte_eq_ofNat hc
  match args, h with
  | [x, y], rfl => exact hf x y

theorem encodeRequest_args3 {f : Byte → Byte → Byte → Request} (hc : code.toNat = k)
    (hf : ∀ x y z, encodeRequest (f x y z) = [.ofNat 8 k, x, y, z]) (h : args3 f args = some r) :
    encodeRequest r = code :: args := by
  obtain rfl := byte_eq_ofNat hc
  match args, h with
  | [x, y, z], rfl => exact hf x y z

theorem encodeRequest_configureRequest (hc : code.toNat = 0x22) (h : configureRequest args = some r) :
    encodeRequest r = code :: args := by
  obtain rfl := byte_eq_ofNat hc
  unfold configureRequest at h
  split at h
  · cases h
    simp [encodeRequest, encodeMutation, wordBytes]
  · cases h

theorem encodeRequest_queueRequest (hc : code.toNat = 0x30) (h : queueRequest args = some r) :
    encodeRequest r = code :: args := by
  obtain rfl := byte_eq_ofNat hc
  unfold queueRequest at h
  split at h
  · cases h
    simp [encodeRequest, encodeMutation, wordBytes]
  · cases h

theorem encodeRequest_defineRequest (hc : code.toNat = 0x40) (h : defineRequest args = some r) :
    encodeRequest r = code :: args := by
  obtain rfl := byte_eq_ofNat hc
  unfold defineRequest at h
  split at h
  · cases h
    rfl
  · cases h

theorem encodeRequest_setPosition (axis v1 v0 : Byte) :
    encodeRequest (.mutate axis (.setPosition (word16 v1 v0))) = [0x24, axis, v1, v0] := by
  simp [encodeRequest, encodeMutation, wordBytes]

/-- A code and argument bytes that make a request are the bytes that spell it. -/
theorem encodeRequest_requestOf (h : requestOf code args = some r) : encodeRequest r = code :: args := by
  unfold requestOf at h
  split at h
  case h_1 hc | h_2 hc | h_3 hc | h_4 hc | h_9 hc => exact encodeRequest_args0 hc rfl h
  case h_5 hc | h_6 hc | h_17 hc | h_28 hc => exact encodeRequest_args2 hc (fun _ _ => rfl) h
  case h_8 hc => exact encodeRequest_args3 hc (fun _ _ _ => rfl) h
  case h_14 hc => exact encodeRequest_args3 hc encodeRequest_setPosition h
  case h_12 hc => exact encodeRequest_configureRequest hc h
  case h_16 hc => exact encodeRequest_queueRequest hc h
  case h_24 hc => exact encodeRequest_defineRequest hc h
  case h_31 => cases h
  all_goals
    rename_i hc
    exact encodeRequest_args1 hc (fun _ => rfl) h

end

theorem encodeRequest_parseRequest {bytes : List Byte} {r : Request} (h : parseRequest bytes = some r) :
    encodeRequest r = bytes := by
  cases bytes with
  | nil => cases h
  | cons code args => exact encodeRequest_requestOf h

/-! ## The check byte (R163) -/

/-- Different check registers stay different over the same bytes. -/
theorem crcByte_foldl_inj (bytes : List Byte) {x y : Byte} (h : bytes.foldl crcByte x = bytes.foldl crcByte y) : x = y := by
  induction bytes generalizing x y with
  | nil => exact h
  | cons b bytes ih => exact (BitVec.xor_left_inj b).1 (crcByte_inj (ih h))

theorem crc8_changed (before after : List Byte) {b c : Byte} (h : b ≠ c) :
    crc8 (before ++ b :: after) ≠ crc8 (before ++ c :: after) := by
  simp only [crc8, List.foldl_append, List.foldl_cons]
  exact fun he => h ((BitVec.xor_right_inj _).1 (crcByte_inj (crcByte_foldl_inj after he)))

/-- Settles O1: code by code for the bytes, and by the check register for the check byte. -/
theorem requestsAndTheirBytesAgree : Obligations.RequestsAndTheirBytesAgree :=
  ⟨parseRequest_encodeRequest, fun _ _ => encodeRequest_parseRequest, fun before after _ _ => crc8_changed before after⟩

end Sys2Proof
end

section
/-! What the events of a port unit reach, and what every command does with the commands that wait (00_scope.md 0.6.4, 9 R165). -/

namespace Sys2Proof.Machine

variable {s t : State} (n : AxisId) (p : Port)

/-! ## The events of a port unit -/

/-- An event of a port unit ends in the port unit or in the handing on of a request (R165). -/
theorem exec_portUnit_same {c : Instr}
    (hc : (portUnitOf c).isSome = true ∨ ∃ p, c = .readDevice p ∨ c = .readPortStatus p ∨ c = .clearPortErrors p)
    (h : exec c s = .next t) : s.SameButPorts t := by
  cases c
  case frameStart p => exact execFrameStart_same p h
  case frameByte p e => exact execFrameByte_same p e h
  case frameEnd p => exact execFrameEnd_same p h
  case replyArrival p => exact execReplyArrival_same p h
  case readDevice p => exact execReadDevice_same p h
  case readPortStatus p => exact execReadPortStatus_same p h
  case clearPortErrors p => exact execClearPortErrors_same p h
  case startAnswer p n => exact execStartAnswer_same n p h
  case detachAnswer p src => exact execDetachAnswer_same p src h
  case portHaltLevel p => exact execPortHaltLevel_same p h
  all_goals simp [portUnitOf] at hc

/-- Settles O8. -/
theorem portEventsReachOnlyPortsAndInboxes : Obligations.PortEventsReachOnlyPortsAndInboxes :=
  fun _ _ _ hc h => exec_portUnit_same hc h

/-! ## The commands that wait -/

/-- No command's meaning ends in a fault or a refusal. -/
theorem exec_next (c : Instr) (s : State) : ∃ t, exec c s = .next t := by
  cases c <;> exact ⟨_, rfl⟩

@[simp] theorem State.runAxis_pending (s : State) (a : Axis) (ts : List Task) :
    (s.runAxis n a ts).pending = s.pending :=
  State.finish_pending ..

theorem State.AxisEvent.pending (h : s.AxisEvent n t) : t.pending = s.pending := by
  cases h with
  | absent => rfl
  | set a => rfl
  | tasks a ts => exact s.runAxis_pending n a ts

theorem State.filterHalt_pending (s : State) : s.filterHalt.pending = s.pending := by
  unfold State.filterHalt
  split <;> rfl

theorem State.reachQuiet_pending (s : State) : s.reachQuiet.pending = s.pending := by
  unfold State.reachQuiet
  split <;> rfl

theorem State.replyRestart_pending (s : State) : s.replyRestart.pending = s.pending := by
  unfold State.replyRestart
  split <;> rfl

@[simp] theorem State.endPulse_pending (s : State) (pl : Pulse) : (s.endPulse n pl).pending = s.pending :=
  State.finish_pending ..

theorem execGo_pending (h : execGo p s = .next t) : t.pending = s.pending := by
  cases h
  split
  · exact (State.collected_same _ p).pending
  · rfl

theorem execRestartEnd_pending (h : execRestartEnd s = .next t) : t.pending = s.pending := by
  cases h
  split
  · refine ((State.handHeld_same _ .a).trans (State.handHeld_same _ .b)).pending.trans ?_
    refine (State.replyRestart_pending _).trans ?_
    exact ((s.settle_same .a).trans (State.settle_same _ .b)).pending
  · rfl

theorem execReportAnswer_pending (h : execReportAnswer s = .next t) : t.pending = s.pending := by
  cases h
  split
  · rfl
  · dsimp only
    split <;> rfl

theorem execClaimRestartStep_pending (h : execClaimRestartStep s = .next t) : t.pending = s.pending := by
  cases h
  split
  · dsimp only
    split <;> rfl
  · rfl

theorem execOvercurrent_pending (h : execOvercurrent n s = .next t) : t.pending = s.pending := by
  cases h
  dsimp only
  split
  · split
    · exact s.finish_pending n _
    · rfl
  · rfl

/-- Every command leaves the queue of commands as it is. -/
theorem exec_pending {c : Instr} (h : exec c s = .next t) : t.pending = s.pending := by
  by_cases hport : (portUnitOf c).isSome = true ∨
      ∃ p, c = .readDevice p ∨ c = .readPortStatus p ∨ c = .clearPortErrors p
  · exact (exec_portUnit_same hport h).pending
  cases haxis : axisTakerOf c with
  | some n => exact (exec_axisEvent n haxis h).pending n
  | none =>
    cases c
    case go p => exact execGo_pending p h
    case restartEnd => exact execRestartEnd_pending h
    case reportAnswer => exact execReportAnswer_pending h
    case claimRestartStep => exact execClaimRestartStep_pending h
    case overcurrent n => exact execOvercurrent_pending n h
    -- An event over the whole state, or a request: each of its branches updates other parts of the state.
    case rstLow => cases h; rfl
    case rstRelease | startingEnd | filteredHaltChange | restart | restartClear | detachClear
        | ownerChangeReport | keep | detach | setNoticeMask | setWatch | readNotices | ackNotices | readProfile
        | leaseExpiry | noticePosting | authorisation | claim | release | seize | defineProfile | deleteProfile =>
      cases h
      repeat' split
      all_goals rfl
    case haltPin level =>
      cases h
      split
      · rfl
      · exact s.filterHalt_pending
    case quietReport src =>
      cases h
      dsimp only
      split <;> split
      · exact State.reachQuiet_pending _
      · rfl
      · exact State.reachQuiet_pending _
      · rfl
    -- An axis controller's event ends with its axis put back.
    case admissionTake | configurationExchange | give | parkTake =>
      cases h
      repeat' split
      all_goals simp
    case pulseEnd | periodExpiry =>
      cases h
      repeat' split
      all_goals simp
    all_goals simp [portUnitOf, axisTakerOf] at hport haxis

/-- Settles O3: every meaning gives a next state, and no branch of one writes the queue. -/
theorem everyCommandGoesOn : Obligations.EveryCommandGoesOn := by
  intro c s
  obtain ⟨t, h⟩ := exec_next c s
  exact ⟨t, h, exec_pending h⟩

end Sys2Proof.Machine
end

section
/-! The events of a port unit on its frame: SEL, the edges of SCK, what a complete byte does, and the release; replies and the port
unit's own requests (9 R158 to R174, 11 R187). -/

namespace Sys2Proof.Machine

/-! ## The edges of SCK in a frame (R158) -/

section

variable {s t : State} {p : Port} {u : PortUnit}

/-- An edge of SCK outside a frame is disregarded (R158). -/
theorem exec_frameByte_idle (e : SckEdge) (ht : s.settle p = t) (hf : (t.port p).frame = .idle) :
    exec (.frameByte p e) s = .next t := by
  simp only [exec, execFrameByte, ht, hf]

theorem exec_frameByte_falls (ht : s.settle p = t) (hf : (t.port p).frame ≠ .idle) :
    exec (.frameByte p .falls) s = .next (t.sckFalls p) := by
  simp only [exec, execFrameByte, ht]

theorem exec_frameByte_rises (mosi : Bool) (ht : s.settle p = t) (hf : (t.port p).frame ≠ .idle) :
    exec (.frameByte p (.rises mosi)) s = .next (t.sckRises p mosi) := by
  simp only [exec, execFrameByte, ht]

theorem exec_frameByte_begins (ht : s.settle p = t) (hu : t.port p = u) (hf : u.frame ≠ .idle) (hb : u.inByte = false) :
    exec (.frameByte p .falls) s = .next (t.setPort p (u.beginByte (t.statusByte p))) := by
  subst hu
  rw [exec_frameByte_falls ht hf, State.sckFalls, if_neg (by simp [hb])]

theorem exec_frameByte_shifts (ht : s.settle p = t) (hu : t.port p = u) (hf : u.frame ≠ .idle) (hb : u.inByte = true)
    (hl : u.sckLow = false) : exec (.frameByte p .falls) s = .next (t.setPort p u.nextBit) := by
  subst hu
  rw [exec_frameByte_falls ht hf, State.sckFalls, if_pos hb, if_neg (by simp [hl])]

theorem exec_frameByte_samples (mosi : Bool) (ht : s.settle p = t) (hu : t.port p = u) (hf : u.frame ≠ .idle)
    (hb : u.inByte = true) (hl : u.sckLow = true) (h7 : u.bits.length < 7) :
    exec (.frameByte p (.rises mosi)) s = .next (t.setPort p (u.sample mosi)) := by
  subst hu
  rw [exec_frameByte_rises mosi ht hf, State.sckRises, if_pos (by simp [hb, hl]), if_pos h7]

/-- The eighth rising edge completes the byte `b` whose bits were sampled. -/
theorem exec_frameByte_completes (mosi : Bool) {b : Byte} (ht : s.settle p = t) (hu : t.port p = u) (hf : u.frame ≠ .idle)
    (hb : u.inByte = true) (hl : u.sckLow = true) (h7 : u.bits.length = 7)
    (hbits : ∀ i, i < 8 → b.getLsbD (7 - i) = (u.bits ++ [mosi]).getD i false) :
    exec (.frameByte p (.rises mosi)) s = .next ((t.setPort p u.byteDone).completeByte p b) := by
  subst hu
  rw [exec_frameByte_rises mosi ht hf, State.sckRises, if_pos (by simp [hb, hl]), if_neg (by simp [h7]),
    byteOfBits_eq (by simp [h7]) hbits]

end

/-! ## What the status byte holds (R161, Table 10-3) -/

theorem flagByte_getLsbD (b0 b1 b2 b3 : Bool) (i : Nat) :
    (flagByte b0 b1 b2 b3).getLsbD i = [b0, b1, b2, b3].getD i false := by
  by_cases hi : i < 8
  · have key : ∀ b0 b1 b2 b3 : Bool, ∀ i : Fin 8,
        (flagByte b0 b1 b2 b3).getLsbD i.val = [b0, b1, b2, b3].getD i.val false := by decide
    exact key b0 b1 b2 b3 ⟨i, hi⟩
  · rw [BitVec.getLsbD_of_ge _ _ (by omega), List.getD_eq_default _ _ (by simp; omega)]

theorem byte_getMsbD (b : Byte) {i : Nat} (hi : i < 8) : b.getMsbD i = b.getLsbD (7 - i) := by
  simp [BitVec.getMsbD, hi]

/-! ## A byte that begins (R158, R161, R167, R168) -/

section

variable {u : PortUnit}

theorem PortUnit.countError_none {e : FrameError} (h : u.frameError = none) :
    u.countError e =
      { u with
        frameError := some e
        firstError := if u.errorCounter = 0 then some e else u.firstError
        errorCounter := min 255 (u.errorCounter + 1) } := by
  simp only [PortUnit.countError, h]
  rfl

theorem PortUnit.countError_later {e : FrameError} (h : u.frameError ≠ none) : u.countError e = u := by
  unfold PortUnit.countError
  split
  · rfl
  · exact absurd ‹_› h

variable {status : Byte}

theorem PortUnit.beginByte_command (h : u.frame = .command) : u.beginByte status = u.shiftOut u.summary := by
  simp only [PortUnit.beginByte, h]

theorem PortUnit.beginByte_arguments (h : u.frame = .arguments) :
    u.beginByte status = u.shiftOut (if u.rx.length = 1 then status else 0x00) := by
  simp only [PortUnit.beginByte, h]

theorem PortUnit.beginByte_waiting (h : u.frame = .waiting) (hw : u.waited = false ∨ u.out = none) :
    u.beginByte status = { u.shiftOut 0x00 with waited := true } := by
  simp only [PortUnit.beginByte, h]
  split
  · simp_all
  · rfl

theorem PortUnit.beginByte_ready (h : u.frame = .waiting) (hw : u.waited = true) (ho : u.out ≠ none) :
    u.beginByte status = { u.shiftOut 0xA5 with frame := .replying } := by
  obtain ⟨bytes, ho⟩ := Option.ne_none_iff_exists'.1 ho
  simp only [PortUnit.beginByte, h, hw, ho]

theorem PortUnit.beginByte_replying {b : Byte} {rest : List Byte} (h : u.frame = .replying) (ho : u.out = some (b :: rest)) :
    u.beginByte status = { u.shiftOut b with out := some rest } := by
  simp only [PortUnit.beginByte, h, ho]

theorem PortUnit.beginByte_draining (h : u.frame = .draining) :
    u.beginByte status = (u.countError .extraBytes).shiftOut 0xFF := by
  simp only [PortUnit.beginByte, h]

theorem PortUnit.beginByte_rejecting (h : u.frame = .rejecting) : u.beginByte status = u.shiftOut 0xFF := by
  simp only [PortUnit.beginByte, h]

end

/-- Settles O10: a byte that begins takes its content from the frame state; a later edge moves one bit. -/
theorem aByteThatBeginsShowsItsPosition : Obligations.AByteThatBeginsShowsItsPosition := by
  intro s t p u shows ht hu hshows
  have shows_eq : ∀ v b, shows v b = t.setPort p (v.shiftOut b) := fun v b => by
    rw [hshows, PortUnit.shiftOut, byte_getMsbD b (by decide)]
  simp only [shows_eq]
  refine ⟨fun hb => ?_,
    fun hf hb => ⟨fun hl h8 => ?_, fun mosi hl h7 => exec_frameByte_samples mosi ht hu hf hb hl h7⟩, ?_⟩
  · have begins : u.frame ≠ .idle → _ := fun hf => exec_frameByte_begins ht hu hf hb
    refine ⟨fun h => ?_, fun h h1 => ?_, fun h h1 => ?_, fun h hw => ?_, fun h hw ho => ?_, fun b rest h ho => ?_,
      fun h he => ?_, fun h he => ?_, fun h => ?_⟩ <;> rw [begins (by simp [h])]
    · rw [PortUnit.beginByte_command h]
    · rw [PortUnit.beginByte_arguments h, if_pos h1]
    · rw [PortUnit.beginByte_arguments h, if_neg h1]
    · rw [PortUnit.beginByte_waiting h hw]; rfl
    · rw [PortUnit.beginByte_ready h hw ho]; rfl
    · rw [PortUnit.beginByte_replying h ho]; rfl
    · rw [PortUnit.beginByte_draining h, PortUnit.countError_none he]
    · rw [PortUnit.beginByte_draining h, PortUnit.countError_later he]
    · rw [PortUnit.beginByte_rejecting h]
  · rw [exec_frameByte_shifts ht hu hf hb hl, PortUnit.nextBit, byte_getMsbD _ h8]
  · subst hu
    simp only [State.statusByte, flagByte_getLsbD]
    exact ⟨by simp, by simp [State.isSupervisor], by simp, by simp,
      fun i hi => List.getD_eq_default _ _ (by simpa using hi)⟩

/-! ## A held request is handed on (R165, R166) -/

section

variable {s t : State} {p : Port} {u : PortUnit} {r : Request}

theorem State.handOn_setPort (t : State) (p : Port) (u : PortUnit) (r : Request) :
    (t.setPort p u).handOn p r = (t.setPort p { u with held := none, inHand := some r, mine := true }).route p r := by
  simp [State.handOn]

theorem State.handHeld_goes (hh : (s.port p).held = some r) (hi : (s.port p).inHand = none)
    (hr : s.start.phase.restarting = false) : s.handHeld p = s.handOn p r := by
  simp [State.handHeld, hh, hi, hr]

theorem State.handHeld_setPort_goes (hh : u.held = some r) (hi : u.inHand = none)
    (hr : t.start.phase.restarting = false) :
    (t.setPort p u).handHeld p =
      (t.setPort p { u with held := none, inHand := some r, mine := true }).route p r := by
  simp [State.handHeld, hh, hi, hr, State.handOn_setPort]

theorem State.handHeld_stays
    (h : (s.port p).held = none ∨ (s.port p).inHand ≠ none ∨ s.start.phase.restarting = true) : s.handHeld p = s := by
  unfold State.handHeld
  split
  · rename_i hh
    refine if_neg ?_
    rintro ⟨hi, hr⟩
    simp_all
  · rfl

end

/-! ## A complete byte (R160, R164) -/

section

variable {t : State} {p : Port} {u : PortUnit} {b : Byte} {r : Request}

theorem PortUnit.atCheck_eq (u : PortUnit) : u.atCheck = requestWellFormed u.rx := by
  unfold PortUnit.atCheck requestWellFormed
  cases u.rx <;> rfl

theorem PortUnit.checked_eq (hr : u.rx = encodeRequest r) (b : Byte) :
    u.checked b = if b = crc8 u.rx then some r else none := by
  simp only [PortUnit.checked, hr, parseRequest_encodeRequest, eq_comm]

theorem PortUnit.codeByte_known (h : argCount b ≠ none) : u.codeByte b = { u with frame := .arguments, rx := [b] } := by
  obtain ⟨k, hk⟩ := Option.ne_none_iff_exists'.1 h
  simp only [PortUnit.codeByte, hk]

theorem PortUnit.codeByte_unknown (h : argCount b = none) :
    u.codeByte b = { u.countError .unknownCode with frame := .rejecting } := by
  simp only [PortUnit.codeByte, h]

theorem State.completeByte_command (hf : u.frame = .command) :
    (t.setPort p u).completeByte p b = t.setPort p (u.codeByte b) := by
  simp [State.completeByte, hf]

theorem State.completeByte_gathers (hf : u.frame = .arguments) (hc : requestWellFormed u.rx = false) :
    (t.setPort p u).completeByte p b = t.setPort p { u with rx := u.rx ++ [b] } := by
  simp [State.completeByte, hf, PortUnit.atCheck_eq, hc]

theorem State.completeByte_passes (hf : u.frame = .arguments) (hr : u.rx = encodeRequest r) (hb : b = crc8 u.rx) :
    (t.setPort p u).completeByte p b = (t.setPort p { u with frame := .waiting, held := some r }).handHeld p := by
  have hc : requestWellFormed u.rx = true := by rw [hr]; exact encodeRequest_wellFormed r
  simp [State.completeByte, hf, PortUnit.atCheck_eq, hc, PortUnit.checked_eq hr, hb]

theorem State.completeByte_fails (hf : u.frame = .arguments) (hr : u.rx = encodeRequest r) (hb : b ≠ crc8 u.rx) :
    (t.setPort p u).completeByte p b = t.setPort p { u.countError .checkFailed with frame := .rejecting } := by
  have hc : requestWellFormed u.rx = true := by rw [hr]; exact encodeRequest_wellFormed r
  simp [State.completeByte, hf, PortUnit.atCheck_eq, hc, PortUnit.checked_eq hr, hb]

theorem State.completeByte_lastReply (hf : u.frame = .replying) (ho : u.out = some []) :
    (t.setPort p u).completeByte p b = t.setPort p { u with frame := .draining } := by
  simp [State.completeByte, hf, ho]

/-- Where the frame takes nothing from MOSI, a complete byte is disregarded (R160). -/
theorem State.completeByte_disregarded
    (h : u.frame = .waiting ∨ (u.frame = .replying ∧ u.out ≠ some []) ∨ u.frame = .draining ∨
      u.frame = .rejecting) :
    (t.setPort p u).completeByte p b = t.setPort p u := by
  rcases h with hf | ⟨hf, ho⟩ | hf | hf
  · simp [State.completeByte, hf]
  · have same : { u with frame := .replying } = u := by rw [← hf]
    simp [State.completeByte, hf, ho, same]
  · simp [State.completeByte, hf]
  · simp [State.completeByte, hf]

end

/-- Settles O11: the byte completes, and then the frame's state decides. -/
theorem aCompleteByteAdvancesTheFrame : Obligations.ACompleteByteAdvancesTheFrame := by
  intro s t p u v b mosi ht hu hb hl h7 hbits hv
  obtain rfl : v = u.byteDone := hv
  have completes : u.frame ≠ .idle → _ := fun hf => exec_frameByte_completes mosi ht hu hf hb hl h7 hbits
  refine ⟨fun hf hc => ?_, fun hf hc he => ?_, fun hf hc => ?_, fun hf ho => ?_, fun h => ?_⟩
  · rw [completes (by simp [hf]), State.completeByte_command (u := u.byteDone) hf, PortUnit.codeByte_known hc]
  · rw [completes (by simp [hf]), State.completeByte_command (u := u.byteDone) hf, PortUnit.codeByte_unknown hc,
      PortUnit.countError_none (u := u.byteDone) he]; rfl
  · rw [completes (by simp [hf]), State.completeByte_gathers (u := u.byteDone) hf hc]; rfl
  · rw [completes (by simp [hf]), State.completeByte_lastReply (u := u.byteDone) hf ho]
  · rw [completes (by rcases h with hf | ⟨hf, _⟩ | hf | hf <;> simp [hf]),
      State.completeByte_disregarded (u := u.byteDone) h]

/-- Settles O12: the bytes before the check byte spell a request. -/
theorem theCheckByteLetsTheRequestPass : Obligations.TheCheckByteLetsTheRequestPass := by
  intro s t p u v b mosi r ht hu hb hl h7 hbits hf hr hv
  obtain rfl : v = u.byteDone := hv
  rw [exec_frameByte_completes mosi ht hu (by simp [hf]) hb hl h7 hbits]
  refine ⟨fun hc hi hp => ?_, fun hc hdefer => ?_, fun hc he => ?_⟩
  · rw [State.completeByte_passes (u := u.byteDone) hf hr hc]
    exact congrArg Host.Outcome.next (State.handHeld_setPort_goes rfl hi hp)
  · rw [State.completeByte_passes (u := u.byteDone) hf hr hc, State.handHeld_stays (.inr ?_)]
    rw [State.port_setPort_same]
    exact hdefer
  · rw [State.completeByte_fails (u := u.byteDone) hf hr hc,
      PortUnit.countError_none (u := u.byteDone) he]
    rfl

/-! ## The assertion and the release of SEL (R159, R170, R172, R181) -/

theorem exec_frameStart {s t : State} {p : Port} (ht : s.settle p = t) (hsel : (t.port p).sel = false)
    (hready : t.readyPin = true) :
    exec (.frameStart p) s = .next (t.setPort p ((t.port p).startFrame (t.notice.summary p))) := by
  simp only [exec, execFrameStart, ht, hsel, if_pos (show t.start.phase.ready = true from hready)]
  rfl

theorem exec_frameStart_unready {s t : State} {p : Port} (ht : s.settle p = t) (hsel : (t.port p).sel = false)
    (hready : t.readyPin = false) : exec (.frameStart p) s = .next (t.setPort p { t.port p with sel := true }) := by
  simp [exec, execFrameStart, ht, hsel, show t.start.phase.ready = false from hready]

/-- Settles O9: READY decides, on the state in which the port's own request is taken. -/
theorem selectBeginsAFrame : Obligations.SelectBeginsAFrame :=
  fun _ _ _ ht hsel => ⟨exec_frameStart ht hsel, exec_frameStart_unready ht hsel⟩

section

variable {u : PortUnit} {x : FrameError}

theorem PortUnit.hasFrame_iff (u : PortUnit) :
    u.hasFrame = true ↔ u.frame ≠ .idle ∧ (u.frame ≠ .command ∨ u.inByte = true) := by
  unfold PortUnit.hasFrame
  cases u.frame <;> simp

theorem PortUnit.countEnd_none (h : u.endError = none) : u.countEnd = u := by
  simp only [PortUnit.countEnd, h]

theorem PortUnit.countEnd_some (h : u.endError = some x) : u.countEnd = u.countError x := by
  simp only [PortUnit.countEnd, h]

/-- Only the first error of a frame is counted (R170). -/
theorem PortUnit.countEnd_later (h : u.frameError ≠ none) : u.countEnd = u := by
  cases he : u.endError with
  | none => exact PortUnit.countEnd_none he
  | some x => rw [PortUnit.countEnd_some he, PortUnit.countError_later h]

/-- A release outside a frame, or of an empty frame, makes no error arise. -/
theorem PortUnit.endError_of_hasFrame (h : u.hasFrame = false) : u.endError = none := by
  unfold PortUnit.hasFrame at h
  unfold PortUnit.endError
  cases hf : u.frame <;> simp_all

theorem exec_frameEnd {s t : State} {p : Port} (ht : s.settle p = t) (hu : t.port p = u) (hsel : u.sel = true) :
    exec (.frameEnd p) s = .next (t.setPort p u.endFrame) := by
  simp [exec, execFrameEnd, ht, hu, hsel]

end

/-- Settles O13: the release counts its error first; last_frame_good is written where there was a frame. -/
theorem releaseEndsAFrame : Obligations.ReleaseEndsAFrame := by
  intro s t p u v e ht hu hsel he hv
  replace he : u.endError = e := by
    rw [he, PortUnit.endError]
    cases u.frame <;> cases u.inByte <;> cases u.held <;> rfl
  rw [exec_frameEnd ht hu hsel, PortUnit.endFrame]
  refine ⟨fun hno => ?_, fun hi hc herr => ?_, fun hi hc herr hnone => ?_, fun x hi hc herr hx => ?_⟩
  · have hframe : u.hasFrame = false := by
      rw [Bool.eq_false_iff, ne_eq, PortUnit.hasFrame_iff]
      rcases hno with h | ⟨h, hb⟩ <;> simp [*]
    rw [PortUnit.countEnd_none (PortUnit.endError_of_hasFrame hframe), hframe, hv]
    rfl
  · rw [PortUnit.countEnd_later herr, u.hasFrame_iff.2 ⟨hi, hc⟩, hv]
    simp [herr]
  · rw [PortUnit.countEnd_none (he.trans hnone), u.hasFrame_iff.2 ⟨hi, hc⟩, hv]
    simp [herr]
  · rw [PortUnit.countEnd_some (he.trans hx), PortUnit.countError_none herr, u.hasFrame_iff.2 ⟨hi, hc⟩, hv]
    simp

/-! ## Replies, and the requests of the port unit itself (R165, R169, R173, R174, R187) -/

section

variable {s t : State} {p : Port} {u : PortUnit} {r : Reply}

theorem State.arrive_setPort (t : State) (p : Port) (u : PortUnit) (r : Reply) :
    (t.setPort p u).arrive p r =
      (t.setPort p { u with inHand := none, mine := false, out := if u.mine then some r.bytes else u.out }).handHeld p := by
  simp [State.arrive]

theorem State.arrive_unheld (hu : s.port p = u) (hh : u.held = none) :
    s.arrive p r =
      s.setPort p { u with inHand := none, mine := false, out := if u.mine then some r.bytes else u.out } := by
  subst hu
  rw [State.arrive, State.handHeld_stays (.inl (by simpa using hh))]

theorem State.arrive_setPort_unheld (hh : u.held = none) :
    (t.setPort p u).arrive p r =
      t.setPort p { u with inHand := none, mine := false, out := if u.mine then some r.bytes else u.out } := by
  rw [State.arrive_unheld (State.port_setPort_same ..) hh, State.setPort_setPort]

theorem exec_readDevice (h : (s.port p).inHand = some .readDevice) :
    exec (.readDevice p) s = .next (s.takeReadDevice p) := congrArg Host.Outcome.next (if_pos h)

theorem exec_readPortStatus (h : (s.port p).inHand = some .readPortStatus) :
    exec (.readPortStatus p) s = .next (s.takeReadPortStatus p) := congrArg Host.Outcome.next (if_pos h)

theorem exec_clearPortErrors (h : (s.port p).inHand = some .clearPortErrors) :
    exec (.clearPortErrors p) s = .next (s.takeClearPortErrors p) := congrArg Host.Outcome.next (if_pos h)

theorem exec_replyArrival (ht : s.settle p = t) (hu : t.port p = u) (hr : u.replyIn = some r) :
    exec (.replyArrival p) s = .next ((t.setPort p { u with replyIn := none }).arrive p r) := by
  simp only [exec, execReplyArrival, ht, hu, hr]

end

/-- Settles O14: the reply arrives, and a held request goes where nothing defers it. -/
theorem aReplyEndsTheRequestInHand : Obligations.AReplyEndsTheRequestInHand := by
  intro s t p u v r ht hu hr hv
  have arrives : exec (.replyArrival p) s = .next ((t.setPort p v).handHeld p) := by
    rw [exec_replyArrival ht hu hr, State.arrive_setPort, hv]
    rfl
  have held : v.held = u.held := by rw [hv]
  have free : v.inHand = none := by rw [hv]
  rw [arrives]
  refine ⟨fun hstays => ?_, fun q hq hp => ?_⟩
  · rw [State.handHeld_stays]
    rw [State.port_setPort_same, held]
    exact hstays.imp_right .inr
  · rw [State.handHeld_setPort_goes (held.trans hq) free hp]

/-- Settles O15: each row takes the request in hand, and so does the settling that every other event begins with. -/
theorem aPortTakesItsOwnRequests : Obligations.APortTakesItsOwnRequests := by
  intro s p u v hu hh hv
  refine ⟨fun hi => ?_, fun hi => ?_, fun hi => ?_, fun hi => ?_, fun hi => ?_, fun hi => ?_, fun h1 h2 h3 => ?_⟩
  · rw [exec_readDevice (by rw [hu, hi]), State.takeReadDevice, State.arrive_unheld hu hh, hu, hv]
    rfl
  · rw [exec_readPortStatus (by rw [hu, hi]), State.takeReadPortStatus, hu, hv]
    exact congrArg Host.Outcome.next (State.arrive_setPort_unheld hh)
  · rw [exec_clearPortErrors (by rw [hu, hi]), State.takeClearPortErrors, hu, hv]
    exact congrArg Host.Outcome.next (State.arrive_setPort_unheld hh)
  · simp only [State.settle, hu, hi]
  · simp only [State.settle, hu, hi]
  · simp only [State.settle, hu, hi]
  · unfold State.settle
    rw [hu]
    split
    · exact absurd ‹_› h1
    · exact absurd ‹_› h2
    · exact absurd ‹_› h3
    · rfl

end Sys2Proof.Machine
end

section
/-! A command whose event is not there (00_scope.md 0.6.5, log entries 3 and 7). -/

namespace Sys2Proof.Machine

variable {s : State} {c : Instr} {n : AxisId} {p : Port}

theorem State.offers_eq_false {m : AxisMsg} (h : s.offers n c = false) (ho : (s.axis n).offer = some m) :
    m.takenBy n ≠ c := by
  simpa [State.offers, ho] using h

theorem requestTakenBy_ne {inbox : PerPort (Option Request)} {r : Request} (h : holdsFor inbox p c = false)
    (hr : inbox.get p = some r) : requestTakenBy p r ≠ c := by
  simpa [holdsFor, hr] using h

/-! ## Events of a port unit -/

/-- A falling edge with SCK low is none (log entry 9). -/
theorem State.sckFalls_absent (h : (s.port p).inByte = true ∧ (s.port p).sckLow = true) : s.sckFalls p = s := by
  simp [State.sckFalls, h]

/-- A rising edge with SCK high is none (log entry 9). -/
theorem State.sckRises_absent (mosi : Bool) (h : (s.port p).inByte = true → (s.port p).sckLow = false) :
    s.sckRises p mosi = s :=
  if_neg (by simpa using h)

/-- A port unit without the event of a command has taken its own request, and nothing else. -/
theorem exec_portUnit_absent (hp : portUnitOf c = some p) (h : s.awaits c = false) : exec c s = .next (s.settle p) := by
  cases c
  case frameStart q =>
    cases hp
    refine congrArg Host.Outcome.next (if_pos ?_)
    simpa [State.awaits] using h
  case frameEnd q =>
    cases hp
    exact congrArg Host.Outcome.next (if_neg (Bool.eq_false_iff.1 h))
  case frameByte q e =>
    cases hp
    by_cases hf : ((s.settle p).port p).frame = .idle
    · exact exec_frameByte_idle e rfl hf
    cases e with
    | falls =>
      rw [exec_frameByte_falls rfl hf, State.sckFalls_absent]
      simpa [State.awaits, hf] using h
    | rises mosi =>
      rw [exec_frameByte_rises mosi rfl hf, State.sckRises_absent]
      simpa [State.awaits, hf] using h
  case replyArrival q =>
    cases hp
    refine congrArg Host.Outcome.next ?_
    dsimp only
    split
    · rename_i hr
      simp [State.awaits, hr] at h
    · rfl
  case portHaltLevel q =>
    cases hp
    refine congrArg Host.Outcome.next ?_
    dsimp only
    split
    · rename_i hr
      simp [State.awaits, hr] at h
    · rfl
  case startAnswer q n =>
    cases hp
    refine congrArg Host.Outcome.next ?_
    dsimp only
    split
    · rename_i ha hc
      simp [State.awaits, PortUnit.holdsStart, ha, hc] at h
    · rfl
  case detachAnswer q src =>
    cases hp
    refine congrArg Host.Outcome.next ?_
    dsimp only
    split
    · rename_i hc
      refine if_neg ?_
      simpa [State.awaits, PortUnit.holdsAnswer, hc] using h
    · rename_i hc
      refine if_neg ?_
      simpa [State.awaits, PortUnit.holdsAnswer, hc] using h
    · rfl
  all_goals cases hp

/-! ## Every other command -/

/-- Without a pulse, or with a pulse of which nothing is detected, the driver cuts nothing (R81). -/
theorem exec_overcurrent_absent (h : s.awaits (.overcurrent n) = false) : exec (.overcurrent n) s = .next s := by
  cases hp : (s.axis n).pulse with
  | none =>
    have pulse : ((s.axis n).detect s.table).pulse = none := by rw [Axis.detect_eq]; split <;> exact hp
    simp only [exec, execOvercurrent, pulse]
  | some pl =>
    simp only [State.awaits, hp, Option.isSome_some, Bool.true_and, Bool.or_eq_false_iff, Option.isSome_eq_false_iff,
      Option.isNone_iff_eq_none] at h
    exact exec_overcurrent_undetected rfl hp h.2 h.1

theorem exec_absent (hp : portUnitOf c = none) (h : s.awaits c = false) : exec c s = .next s := by
  cases c
  case rstLow => cases h
  -- What the claim unit sends an axis controller.
  case enable | disable | configure | setPosition | clearFault | queue | cancel | pause | resume | skip | stop | start
      | releaseAction | seizeAction | detachAction | lapseAction =>
    refine congrArg Host.Outcome.next ?_
    split
    · rename_i ho
      exact (State.offers_eq_false h ho rfl).elim
    · rfl
  -- The requests that the ports hand on.
  case claim | release | keep | seize | detach | authorisation | go | defineProfile | deleteProfile | readProfile
      | readNotices | ackNotices | setNoticeMask | setWatch =>
    refine congrArg Host.Outcome.next ?_
    split
    · rename_i hr
      exact (requestTakenBy_ne h hr rfl).elim
    · rfl
  -- What stands in a field that the command reads is of another kind.
  case admissionTake | configurationExchange | parkTake | give | claimAsk | claimAnswer | axisHaltChange | readQueue
      | rstRelease | startingEnd | detachClear | ownerChangeReport =>
    refine congrArg Host.Outcome.next ?_
    split
    · simp_all [State.awaits]
    · rfl
  case readAxis =>
    refine congrArg Host.Outcome.next ?_
    split
    · simp_all [State.awaits]
    · simp_all [State.awaits]
    · rfl
  case noticePosting src =>
    refine congrArg Host.Outcome.next ?_
    cases src <;> dsimp only <;> split
    · simp_all [State.awaits]
    · rfl
    · simp_all [State.awaits]
    · rfl
  -- The guard of the event fails.
  case haltPin | filteredHaltChange | restart | axisRestartStep | claimRestartStep | restartClear | restartEnd | readDevice
      | readPortStatus | clearPortErrors =>
    refine congrArg Host.Outcome.next ?_
    simp_all [State.awaits]
  case reportAnswer =>
    refine congrArg Host.Outcome.next (if_pos ?_)
    simp only [State.awaits, decide_eq_false_iff_not] at h
    omega
  case quietReport src =>
    cases src <;> exact congrArg Host.Outcome.next (if_neg (Bool.eq_false_iff.1 h))
  case leaseExpiry n =>
    refine congrArg Host.Outcome.next ?_
    split
    · refine if_pos ?_
      simp_all [State.awaits]
    · rfl
  case pulseEnd n =>
    refine congrArg Host.Outcome.next ?_
    split
    · refine if_neg ?_
      simp_all [State.awaits]
    · rfl
  case periodExpiry n =>
    refine congrArg Host.Outcome.next ?_
    split
    · rfl
    · split
      · refine if_neg ?_
        simp_all [State.awaits]
      · simp_all [State.awaits]
  case overcurrent n => exact exec_overcurrent_absent h
  all_goals cases hp

/-- Settles O4: a command reads what it takes, and finds none. -/
theorem aCommandWithoutItsEventChangesNothing : Obligations.ACommandWithoutItsEventChangesNothing := by
  intro c s h
  cases hp : portUnitOf c with
  | some p => exact exec_portUnit_absent hp h
  | none => exact exec_absent hp h

end Sys2Proof.Machine
end

section
/-! A whole request phase: SEL, the bytes of a request with its check byte, and the handing on (9 R158 to R166). -/

namespace Sys2Proof.Machine

/-! ## The bytes of a request phase -/

/-- A port unit in the request phase of a frame, between two bytes and with no request in hand. -/
structure PortUnit.BetweenBytes (u : PortUnit) (f : FrameState) : Prop where
  frame : u.frame = f
  inHand : u.inHand = none
  inByte : u.inByte = false
  sckLow : u.sckLow = false
  bits : u.bits = []

/-- A whole byte leaves nothing but what MISO carries. -/
theorem PortUnit.BetweenBytes.byteDone_shiftOut {u : PortUnit} {f : FrameState} (h : u.BetweenBytes f) (m : Miso)
    (o : Byte) :
    { (u.shiftOut o).byteDone with miso := m } = { u with miso := m, outByte := o } := by
  obtain ⟨_, _, hbyte, hlow, hbits⟩ := h
  cases u
  cases hbyte; cases hlow; cases hbits
  rfl

section

variable {p : Port} {u : PortUnit}

theorem byteCommands_append (p : Port) (xs ys : List Byte) :
    byteCommands p (xs ++ ys) = byteCommands p xs ++ byteCommands p ys := by
  simp [byteCommands]

/-- The sixteen edges of a byte in a request phase change what MISO carries, and complete the byte. -/
theorem execAll_requestByte (s : State) {f : FrameState} (hf : f = .command ∨ f = .arguments) (hu : u.BetweenBytes f)
    (b : Byte) :
    ∃ m o, execAll (byteCommands p [b]) (s.setPort p u) =
      .next ((s.setPort p { u with miso := m, outByte := o }).completeByte p b) := by
  obtain ⟨o, ho⟩ : ∃ o, u.beginByte ((s.setPort p u).statusByte p) = u.shiftOut o := by
    rcases hf with rfl | rfl
    · exact ⟨_, PortUnit.beginByte_command hu.frame⟩
    · exact ⟨_, PortUnit.beginByte_arguments hu.frame⟩
  have inFrame : u.frame ≠ .idle := by rcases hf with rfl | rfl <;> simp [hu.frame]
  refine ⟨.level (o.getMsbD 7), o, ?_⟩
  rw [execAll_byte (s.setPort p u) p (u.shiftOut o) b (by simpa using hu.inHand) (by simpa using inFrame)
    (by simpa using hu.inByte) (by rw [State.port_setPort_same, ho]), State.setPort_setPort]
  exact congrArg (fun v => Host.Outcome.next ((s.setPort p v).completeByte p b)) (hu.byteDone_shiftOut _ o)

/-- Byte 0 is a request code (R164). -/
theorem execAll_codeByte (s : State) (hu : u.BetweenBytes .command) {code : Byte} (hc : argCount code ≠ none) :
    ∃ m o, execAll (byteCommands p [code]) (s.setPort p u) =
      .next (s.setPort p { u with miso := m, outByte := o, frame := .arguments, rx := [code] }) := by
  obtain ⟨m, o, h⟩ := execAll_requestByte (p := p) s (.inl rfl) hu code
  refine ⟨m, o, ?_⟩
  rw [h, State.completeByte_command (u := { u with miso := m, outByte := o }) hu.frame, PortUnit.codeByte_known hc]

/-- The bytes between the code and the check byte are kept in order (R164). -/
theorem execAll_arguments (s : State) {code : Byte} {done rest : List Byte} (hu : u.BetweenBytes .arguments)
    (hrx : u.rx = code :: done) (hc : argCount code = some (done ++ rest).length) :
    ∃ m o, execAll (byteCommands p rest) (s.setPort p u) =
      .next (s.setPort p { u with miso := m, outByte := o, rx := code :: (done ++ rest) }) := by
  induction rest generalizing u done with
  | nil => exact ⟨u.miso, u.outByte, by rw [List.append_nil, ← hrx]; rfl⟩
  | cons b rest ih =>
    have early : requestWellFormed u.rx = false := by simp [hrx, requestWellFormed, hc]
    obtain ⟨m, o, h⟩ := execAll_requestByte (p := p) s (.inr rfl) hu b
    rw [State.completeByte_gathers (u := { u with miso := m, outByte := o }) hu.frame early] at h
    obtain ⟨m', o', h'⟩ := ih (u := { u with miso := m, outByte := o, rx := u.rx ++ [b] }) (done := done ++ [b])
      ⟨hu.frame, hu.inHand, hu.inByte, hu.sckLow, hu.bits⟩ (by simp [hrx]) (by simpa using hc)
    refine ⟨m', o', ?_⟩
    rw [byteCommands_cons, execAll_append h, h', List.append_assoc]
    rfl

/-- The check byte of a request lets it pass where nothing defers it (R165, R166). -/
theorem execAll_checkByte (s : State) {r : Request} (hu : u.BetweenBytes .arguments) (hrx : u.rx = encodeRequest r)
    (hp : s.start.phase.restarting = false) :
    ∃ m o, execAll (byteCommands p [crc8 (encodeRequest r)]) (s.setPort p u) =
      .next ((s.setPort p
        { u with miso := m, outByte := o, frame := .waiting, held := none, inHand := some r, mine := true }).route p r) := by
  obtain ⟨m, o, h⟩ := execAll_requestByte (p := p) s (.inr rfl) hu (crc8 (encodeRequest r))
  refine ⟨m, o, ?_⟩
  rw [h, State.completeByte_passes (u := { u with miso := m, outByte := o }) hu.frame hrx (by rw [← hrx])]
  exact congrArg Host.Outcome.next (State.handHeld_setPort_goes rfl hu.inHand hp)

/-- The bytes of a request and its check byte, from the beginning of a frame. -/
theorem execAll_requestBytes (s : State) (r : Request) (hu : u.BetweenBytes .command)
    (hp : s.start.phase.restarting = false) :
    ∃ m o, execAll (byteCommands p (encodeRequest r ++ [crc8 (encodeRequest r)])) (s.setPort p u) =
      .next ((s.setPort p
        { u with
          miso := m, outByte := o, frame := .waiting, rx := encodeRequest r, held := none, inHand := some r
          mine := true }).route p r) := by
  obtain ⟨code, args, hr⟩ : ∃ code args, encodeRequest r = code :: args :=
    List.exists_cons_of_ne_nil fun h => by simpa [h, requestWellFormed] using encodeRequest_wellFormed r
  have hc : argCount code = some args.length := by
    simpa [hr, requestWellFormed] using encodeRequest_wellFormed r
  obtain ⟨m1, o1, h1⟩ := execAll_codeByte (p := p) s hu (code := code) (by simp [hc])
  obtain ⟨m2, o2, h2⟩ := execAll_arguments (p := p) s (rest := args)
    (u := { u with miso := m1, outByte := o1, frame := .arguments, rx := [code] })
    ⟨rfl, hu.inHand, hu.inByte, hu.sckLow, hu.bits⟩ rfl hc
  obtain ⟨m3, o3, h3⟩ := execAll_checkByte (p := p) s (r := r)
    (u := { u with miso := m2, outByte := o2, frame := .arguments, rx := code :: args })
    ⟨rfl, hu.inHand, hu.inByte, hu.sckLow, hu.bits⟩ hr.symm hp
  refine ⟨m3, o3, ?_⟩
  rw [hr] at h3 ⊢
  rw [List.cons_append, byteCommands_cons, execAll_append h1, byteCommands_append, execAll_append h2]
  exact h3

end

/-! ## The request that has been handed on (Table 7-2) -/

/-- Where every controller is free and no restart runs, the command that takes a request first finds the one handed on. -/
theorem State.route_awaits {s : State} {p : Port} {r : Request} (hin : (s.port p).inHand = some r)
    (hfree : ∀ n, (s.axis n).busy = .none) (hphase : s.start.phase = .serving) :
    (s.route p r).awaits (requestTakenBy p r) = true := by
  cases r with
  | readDevice => simp [State.route, State.awaits, requestTakenBy, hin]
  | readPortStatus => simp [State.route, State.awaits, requestTakenBy, hin]
  | clearPortErrors => simp [State.route, State.awaits, requestTakenBy, hin]
  | restart => simp [State.route, State.awaits, requestTakenBy, hphase]
  | readAxis axis => simp [State.route, State.awaits, requestTakenBy, Axis.free, hfree]
  | readQueue axis => simp [State.route, State.awaits, requestTakenBy, Axis.free, hfree]
  | _ => simp [State.route, State.awaits, requestTakenBy, holdsFor]

/-- Settles O16: the frame begins, its bytes are gathered one by one, and the check byte hands the request on. -/
theorem aWholeRequestPhaseHandsItsRequestOn : Obligations.AWholeRequestPhaseHandsItsRequestOn := by
  intro s p r hready hp hsel hin
  obtain ⟨m, o, h⟩ := execAll_requestBytes (p := p) (u := (s.port p).startFrame (s.notice.summary p)) s r
    ⟨rfl, hin, rfl, rfl, rfl⟩ hp
  have start := exec_frameStart (State.settle_of_inHand hin) hsel hready
  refine ⟨_, (execAll_cons start).trans h, rfl, fun hfree hphase => ?_⟩
  exact State.route_awaits (by simp) hfree hphase

end Sys2Proof.Machine
end

section
/-! The end of a restart at the port units (11 R184, 9 R162, R166, R171, R175). -/

namespace Sys2Proof.Machine

section

variable {s u : State} {p : Port}

/-- RESTART_END, where the port units have taken their own requests. -/
theorem exec_restartEnd (hc : s.start.clearAnswered = true) (hphase : s.start.phase = .restartClearing)
    (hr : s.start.restarter = some p) (ha : s.settle .a = s) (hb : s.settle .b = s)
    (hu : u = { s with
      ports := s.ports.map fun q v =>
        { v with
          errorCounter := 0, firstError := none, fresh := true
          replyIn := if q = p then some ⟨.ok, []⟩ else v.replyIn }
      start := { s.start with phase := .serving, restarter := none, clearAnswered := false } }) :
    exec .restartEnd s = .next ((u.handHeld .a).handHeld .b) := by
  subst hu
  refine (congrArg Host.Outcome.next (if_pos ⟨hc, hphase⟩)).trans ?_
  rw [ha, hb]
  cases p <;> simp only [State.replyRestart, hr] <;> rfl

/-- The handing on of one port's held request leaves the other port's unit. -/
theorem State.handHeld_port_ne {q : Port} (h : q ≠ p) : (s.handHeld p).port q = s.port q := by
  unfold State.handHeld
  split
  · split
    · rw [State.handOn, State.route_port, State.setPort_port_ne _ _ _ _ h]
    · rfl
  · rfl

theorem State.SameButPorts.phase {t : State} (h : s.SameButPorts t) : t.start.phase = s.start.phase := by
  obtain ⟨w, hw⟩ := h.start
  rw [hw]

end

/-- Settles O21: the ports are cleared, then each held request goes in turn. -/
theorem aRestartEndsWithClearPorts : Obligations.ARestartEndsWithClearPorts := by
  intro s u p on hc hphase hr ha hb hu hon
  have hands : ∀ (q : Port) (v : State), (v.port q).held = (s.port q).held → (v.port q).inHand = (s.port q).inHand →
      v.start.phase = .serving → v.handHeld q = on q v := by
    intro q v hheld hin hserving
    obtain ⟨stays, goes⟩ := hon q v
    by_cases h : (s.port q).held = none ∨ (s.port q).inHand ≠ none
    · rw [stays h, State.handHeld_stays]
      rw [hheld, hin]
      exact h.imp_right .inl
    · push Not at h
      obtain ⟨r, hheld'⟩ := Option.ne_none_iff_exists'.1 h.1
      rw [goes r hheld' h.2, State.handHeld_goes (hheld.trans hheld') (hin.trans h.2) (by rw [hserving]; rfl)]
      rfl
  have kept : ∀ q, (u.port q).held = (s.port q).held ∧ (u.port q).inHand = (s.port q).inHand := by
    intro q
    rw [hu]
    simp [State.port]
  have serving : u.start.phase = .serving := by rw [hu]
  have first : u.handHeld .a = on .a u := hands .a u (kept .a).1 (kept .a).2 serving
  have other : (u.handHeld .a).port .b = u.port .b := State.handHeld_port_ne (by decide)
  rw [exec_restartEnd hc hphase hr ha hb hu, ← first, hands .b (u.handHeld .a) (by rw [other, (kept .b).1])
    (by rw [other, (kept .b).2]) ((u.handHeld_same .a).phase.trans serving)]

end Sys2Proof.Machine
end

section
/-! Start-up control: the cold start, the HALT filter with the changes that it sends, and the RESTART that begins
(3 R67, R69, 11 R180 to R183, R186). -/

namespace Sys2Proof.Machine

/-! ## The cold start (R180, R182) -/

section

variable (s : State) (start : StartUp) (n : AxisId) (p : Port) (c : Coil)

@[simp] theorem State.toCold_axis : (s.toCold start).axis n = Axis.cold := Eight.get_same ..

@[simp] theorem State.toCold_port : (s.toCold start).port p = .cold (s.port p).sel := PerPort.get_map ..

theorem State.toCold_coilPin : (s.toCold start).coilPin n c = false := by
  rw [State.coilPin, State.toCold_axis]
  rfl

theorem State.toCold_misoPin : (s.toCold start).misoPin p = .highImpedance := by
  rw [State.misoPin, State.toCold_port]
  rfl

theorem State.attentionPin_of_not_ready {s : State} (h : s.readyPin = false) : s.attentionPin p = false := by
  rw [State.attentionPin, ← State.readyPin, h, Bool.false_and]

end

theorem exec_rstLow (s : State) :
    exec .rstLow s =
      .next (s.toCold (.cold .inReset s.start.supvPin s.start.supvLatch s.start.haltPin)) := rfl

theorem exec_rstRelease {s : State} (supv : Bool) (h : s.start.phase = .inReset) :
    exec (.rstRelease supv) s =
      .next (s.toCold { StartUp.cold .starting supv supv s.start.haltPin with startLeft := Config.startUpTime }) := by
  simp only [exec, execRstRelease, h]

theorem exec_startingEnd {s : State} (h : s.start.phase = .starting) :
    exec .startingEnd s = .next { s with start := { s.start with phase := .serving, startLeft := 0 } } := by
  simp only [exec, execStartingEnd, h]

/-- Settles O6: both cold states are `State.toCold`, whose axes have no pulse and whose ports do not drive MISO. -/
theorem aColdStartClearsLatchesAndServes : Obligations.AColdStartClearsLatchesAndServes := by
  refine ⟨fun s => ⟨_, exec_rstLow s, rfl, rfl, s.toCold_coilPin _, fun p => ⟨?_, s.toCold_misoPin _ p⟩⟩,
    fun s supv => ⟨fun hreset => ?_, fun hstarting => ⟨exec_startingEnd hstarting, rfl⟩⟩⟩
  · exact State.attentionPin_of_not_ready p rfl
  · exact exec_rstRelease supv hreset

/-! ## The HALT filter (R186) -/

theorem StartUp.haltDiffers_iff (u : StartUp) :
    u.haltDiffers = true ↔ u.phase ≠ .inReset ∧ u.haltPin ≠ u.haltFiltered := by
  simp [StartUp.haltDiffers]

section

variable {s : State} {level : Bool}

/-- A change that is due is made before the pin moves again (R186, log entry 5). -/
theorem State.filterHalt_due (hd : s.start.haltDiffers = true) (hm : Config.haltFilterTime ≤ s.start.haltMeasure) :
    s.filterHalt = s.takeHalt := if_pos ⟨hd, hm⟩

theorem State.filterHalt_stays (h : s.start.haltDiffers = true → s.start.haltMeasure < Config.haltFilterTime) :
    s.filterHalt = s := if_neg fun ⟨hd, hm⟩ => Nat.not_le.2 (h hd) hm

theorem exec_haltPin (h : s.start.haltPin ≠ level) :
    exec (.haltPin level) s = .next
      { s.filterHalt with start := { s.filterHalt.start with haltPin := level, haltMeasure := 0 } } :=
  congrArg Host.Outcome.next (if_neg h)

theorem exec_filteredHaltChange (h : s.start.haltDiffers = true) :
    exec .filteredHaltChange s = .next (s.advance (Config.haltFilterTime - s.start.haltMeasure)).takeHalt :=
  congrArg Host.Outcome.next (if_pos h)

end

/-! ## A change of the filtered level where it arrives (R67, R69, R186) -/

section

variable {s t : State} {n : AxisId} {p : Port} {level : Bool} {rest : List Bool}

theorem exec_axisHaltChange (hfree : (s.axis n).free = true) (hin : (s.axis n).haltIn = level :: rest) :
    exec (.axisHaltChange n) s = .next
      (s.setAxis n (Axis.holdChanged s.table { s.axis n with haltSeen := level, haltIn := rest })) := by
  simp only [exec, execAxisHaltChange, hfree, hin]

theorem exec_portHaltLevel (ht : s.settle p = t) (hin : (t.port p).haltIn = level :: rest) :
    exec (.portHaltLevel p) s = .next (t.setPort p { t.port p with haltLevel := level, haltIn := rest }) := by
  simp only [exec, execPortHaltLevel, ht, hin]

end

/-- Settles O7: the filter makes the change exactly where the pin differs and its 2 du are over; an axis controller that
takes the change meets one of the four cases of `Axis.holdChanged`. -/
theorem haltIsFilteredAndHolds : Obligations.HaltIsFilteredAndHolds := by
  refine ⟨fun s => ⟨fun level hpin hnotDue => ?_, fun level hpin hphase hdiff hdue => ?_, fun hphase hdiff => ?_⟩,
    fun s n level rest a hfree hin ha => ?_, fun s t p level rest ht hin => exec_portHaltLevel ht hin⟩
  · have early (hd : s.start.haltDiffers = true) : s.start.haltMeasure < Config.haltFilterTime := by
      obtain ⟨hphase, hdiff⟩ := s.start.haltDiffers_iff.1 hd
      exact (hnotDue.resolve_left hphase).resolve_left hdiff
    rw [exec_haltPin hpin, State.filterHalt_stays early]
  · rw [exec_haltPin hpin, State.filterHalt_due (s.start.haltDiffers_iff.2 ⟨hphase, hdiff⟩) hdue]
    rfl
  · exact ⟨_, rfl, exec_filteredHaltChange (s.start.haltDiffers_iff.2 ⟨hphase, hdiff⟩)⟩
  · rw [exec_axisHaltChange hfree hin, ← ha]
    have cause : a.holdCause = (a.pauseFlag || level) := by rw [ha]; rfl
    rw [← cause]
    refine ⟨fun hc hs hp => ?_, fun hc hwait => ?_, fun hc hs => ?_, fun hc hs => ?_⟩
    · rw [Axis.holdChanged_enters s.table hc hs hp]
    · rw [Axis.holdChanged_waits s.table hc hwait]
    · rw [Axis.holdChanged_leaves s.table hc hs]
    · rw [Axis.holdChanged_unheld s.table hc hs]

/-! ## RESTART (R183) -/

section

variable {s : State} {p : Port}

theorem exec_restart_refused (hphase : s.start.phase = .serving) (hwaits : s.start.restartWaiting.get p = true)
    (hlatch : s.start.supvLatch = true) (hp : p = .a) :
    exec (.restart p) s = .next
      (State.reply { s with start := { s.start with restartWaiting := s.start.restartWaiting.set p false } } p
        ⟨.notSupervisor, []⟩) :=
  congrArg Host.Outcome.next ((if_pos ⟨hphase, hwaits⟩).trans (if_pos ⟨hlatch, hp⟩))

theorem exec_restart_begins (hphase : s.start.phase = .serving) (hwaits : s.start.restartWaiting.get p = true)
    (h : ¬(s.start.supvLatch = true ∧ p = .a)) :
    exec (.restart p) s = .next
      { s with
        start :=
          { s.start with
            phase := .restartStopping
            restartWaiting := s.start.restartWaiting.set p false
            restarter := some p
            quietSeen := Eight.same false
            doneSeen := false }
        claim := { s.claim with restartIn := true }
        axes := s.axes.map fun _ a => { a with restartIn := true } } :=
  congrArg Host.Outcome.next ((if_pos ⟨hphase, hwaits⟩).trans (if_neg h))

end

/-- Settles O17: a RESTART that is not refused has the latch low, or came to Port B. -/
theorem aRestartBeginsOrIsRefused : Obligations.ARestartBeginsOrIsRefused := by
  refine fun s p hphase hwaits => ⟨exec_restart_refused hphase hwaits, fun hallowed => ?_⟩
  refine exec_restart_begins hphase hwaits fun ⟨hlatch, hp⟩ => ?_
  rcases hallowed with hlow | hb
  · exact Bool.false_ne_true (hlow.symm.trans hlatch)
  · exact absurd (hb.symm.trans hp) (by decide)

end Sys2Proof.Machine
end

section
/-! A step with a command waiting (00_scope.md 0.2.1, 0.6.5): the counterpart of `step_of_no_pending`. -/

namespace Sys2Proof.Machine

theorem step_of_pending_cons {s : State} {c : Instr} {rest : List Instr} (h : s.pending = c :: rest) :
    step s = exec c { s with pending := rest } := by
  simp only [step, h]

/-- Settles O2: of the two cases of `step`, a queue with a front command takes the second. -/
theorem stepRunsTheFrontCommand : Obligations.StepRunsTheFrontCommand :=
  fun _ _ _ h => step_of_pending_cons h

end Sys2Proof.Machine
end
